-- ==== Sys2Proof/Word.lean ====
section
/-! DEFINITION. The widths the block moves (00_scope.md R7): bytes, 16-bit counters and ports, 32-bit port values. -/

namespace Sys2Proof

abbrev Byte := BitVec 8
abbrev Half := BitVec 16
abbrev Word := BitVec 32

end Sys2Proof
end

