-- ==== Sys2Proof/Config.lean ====
section
/-! DEFINITION. The implementation parameters of 00_scope.md R6. `Params` is the argument a model takes; `Config.launch` is the
one instance `State.reset` runs with, made of constants that have no body, so that nothing can be proved of their values. -/

namespace Sys2Proof

/-- The two units of the one live ATA channel (44_ata.md R320, R321). -/
inductive AtaUnit where
  | atapi
  | disk
  deriving DecidableEq, Repr

/-- The open parameters of R6, one field a row; `P_CD_IMAGE` and its size are launch arguments. -/
structure Params where
  picResetBase0 : Byte
  picResetBase1 : Byte
  /-- `P_PIT_TICK_MODES`: bit m is set when operating mode m counts. -/
  pitTickModes : BitVec 8
  kbcFifoCap : Nat
  kbcStatusInit : Byte
  kbcConfigInit : Byte
  kbcOutportInit : Byte
  /-- `P_KBC_FORWARD`, decided true for this hardware (D30); R305 keeps the other value defined. -/
  kbcForward : Bool
  ataBufCap : Nat
  cdSize : Nat
  cdImage : List Byte
  hdSize : Nat
  pciNumBlocks : Nat
  pciDisplayIndex : Nat
  /-- Bytes 4..255 of block 0, the open part of `P_PCI_INIT(0)` (46_pci.md R396). -/
  pciHostRest : List Byte
  /-- The display-class block, open as a whole (R396). -/
  pciDisplay : List Byte
  cmosInit : List Byte
  deriving DecidableEq, Repr

namespace Config

/-- `P_ATAPI_SECTOR`, decided 2048 (R6, D40). -/
def atapiSector : Nat := 2048

/-- `P_IDENTIFY(unit, size)`, byte by byte: a function of the unit and the image size only (R6). DESIGN CHOICE (log 16): uninterpreted. -/
opaque identifyByte : AtaUnit → Nat → Nat → Byte

/-- The status byte's OUT bit at the n-th draw (42_pit.md R255): a free value. DESIGN CHOICE (log 9): uninterpreted. -/
opaque pitOut : Nat → Bool

opaque picResetBase0 : Byte
opaque picResetBase1 : Byte
opaque pitTickModes : BitVec 8
opaque kbcFifoSpare : Nat
opaque kbcStatusInit : Byte
opaque kbcConfigInit : Byte
opaque kbcOutportInit : Byte
opaque ataBufSize : Nat
opaque cdSize : Nat
opaque cdByte : Nat → Byte
opaque hdSize : Nat
opaque pciSpareBlocks : Nat
opaque pciDisplayPred : Nat
opaque pciHostByte : Nat → Byte
opaque pciDisplayByte : Nat → Byte
opaque cmosByte : Nat → Byte

/-- `P_IDENTIFY(u, size)` as its 512 bytes (44_ata.md R335). -/
def identify (u : AtaUnit) (size : Nat) : List Byte :=
  (List.range 512).map (identifyByte u size)

/-- The instance the machine starts with: every open value an unknown constant, each constraint of R6 met by its shape. -/
def launch : Params where
  picResetBase0 := picResetBase0
  picResetBase1 := picResetBase1
  pitTickModes := pitTickModes ||| 0x04#8
  kbcFifoCap := kbcFifoSpare + 3
  kbcStatusInit := kbcStatusInit
  kbcConfigInit := kbcConfigInit
  kbcOutportInit := kbcOutportInit
  kbcForward := true
  ataBufCap := max 2048 ataBufSize
  cdSize := cdSize
  cdImage := (List.range cdSize).map cdByte
  hdSize := hdSize
  pciNumBlocks := pciSpareBlocks + pciDisplayPred + 2
  pciDisplayIndex := pciDisplayPred + 1
  pciHostRest := (List.range 252).map pciHostByte
  pciDisplay := (List.range 256).map pciDisplayByte
  cmosInit := (List.range 128).map cmosByte

end Config

/-- The constraints of R6 (93_implementation_defined.md 1.5: an instance outside them is not a model of this block). -/
abbrev Params.wf (p : Params) : Prop :=
  p.pitTickModes.getLsbD 2 = true ∧ 3 ≤ p.kbcFifoCap ∧ p.kbcForward = true ∧
  512 ≤ p.ataBufCap ∧ Config.atapiSector ≤ p.ataBufCap ∧ p.cdImage.length = p.cdSize ∧
  p.pciDisplayIndex ≠ 0 ∧ p.pciDisplayIndex < p.pciNumBlocks ∧
  p.pciHostRest.length = 252 ∧ p.pciDisplay.length = 256 ∧ p.cmosInit.length = 128

end Sys2Proof
end

