-- ==== Sys2Proof/Syntax.lean ====
section
/-! DEFINITION. The transactions of 30_encoding.md as syntax: the descriptor, the names of the units and cursors, the fatal reasons,
and `Instr`, one constructor for each mnemonic of spec/opcode_table.json. -/

namespace Sys2Proof

/-- R130 `dir`: a guest read ("in") or a guest write ("out"). -/
inductive Dir where
  | inp
  | out
  deriving DecidableEq, Repr

/-- R130 `size`: the bytes one element moves. -/
inductive Size where
  | b1
  | b2
  | b4
  deriving DecidableEq, Repr

def Size.bytes : Size → Nat
  | .b1 => 1
  | .b2 => 2
  | .b4 => 4

/-- The element sizes of the ATA data port (40_dispatch.md R166). -/
inductive DataWidth where
  | w2
  | w4
  deriving DecidableEq, Repr

def DataWidth.size : DataWidth → Size
  | .w2 => .b2
  | .w4 => .b4

/-- The I/O descriptor of 40_dispatch.md R160, widths of 00_scope.md R7. -/
structure Descriptor where
  dir : Dir
  size : Size
  port : BitVec 16
  count : BitVec 32
  offset : BitVec 64
  deriving DecidableEq, Repr

/-- `d.size * d.count`, in exact arithmetic (R8, R71). -/
def Descriptor.bytes (d : Descriptor) : Nat := d.size.bytes * d.count.toNat

/-- The two interrupt controllers (41_pic.md R180). -/
inductive PicUnit where
  | primary
  | secondary
  deriving DecidableEq, Repr

/-- The three timer channels (42_pit.md R240). -/
inductive PitChan where
  | c0
  | c1
  | c2
  deriving DecidableEq, Repr

/-- The two DMA units (45_dma.md R380). -/
inductive DmaUnit where
  | slave
  | master
  deriving DecidableEq, Repr

/-- The latches a guest reads back at 0x1F2..0x1F6 (44_ata.md R323). -/
inductive AtaReadLatch where
  | seccount
  | lba0
  | lba1
  | lba2
  | drvhead
  deriving DecidableEq, Repr

/-- The latches a guest writes at 0x1F1..0x1F6 (44_ata.md R322). -/
inductive AtaLatch where
  | features
  | seccount
  | lba0
  | lba1
  | lba2
  | drvhead
  deriving DecidableEq, Repr

/-- `pic[u].init`: the command word expected next (10_state.md R35). -/
inductive PicInit where
  | icw1
  | icw2
  | icw3
  | icw4
  deriving DecidableEq, Repr

/-- `kbc.expect` (10_state.md R45). -/
inductive KbcExpect where
  | none
  | config
  | outport
  deriving DecidableEq, Repr

/-- `kbc.dev_expect` (10_state.md R45). -/
inductive KbdExpect where
  | none
  | scansetArg
  deriving DecidableEq, Repr

/-- The handlers a port can be registered to (10_state.md R34). -/
inductive Handler where
  | pic0
  | pic1
  | pit
  | kbc
  | ata
  | ata2
  | dma0
  | dma1
  | pci
  | cmos
  deriving DecidableEq, Repr

/-- One registration: every port of `lo..hi`, both ends in, belongs to `handler` (40_dispatch.md R161). -/
structure PortRange where
  lo : BitVec 16
  hi : BitVec 16
  handler : Handler
  deriving DecidableEq, Repr

/-- The reason codes F01 to F11 of 60_exceptions.md R423, in order. -/
inductive FatalReason where
  | duplicatePortRegistration
  | backingFileUnopenable
  | unclaimedPort
  | unmappedAccess
  | unrecognizedCommand
  | dataWriteNotRequested
  | readPastData
  | initSequenceViolation
  | capacityExceeded
  | outOfRange
  | busy
  deriving DecidableEq, Repr

/-- Class (a) configuration error, class (b) protocol violation (R420). -/
inductive FatalClass where
  | a
  | b
  deriving DecidableEq, Repr

/-- The steps that no transaction starts: the clocks, the worker and the host's own calls (00_scope.md R5, 60_exceptions.md R446).
`picTick` carries the host's interruptibility at that tick, which is drawn by the host (41_pic.md R212). -/
inductive AgentStep where
  | picTick (ie : Bool)
  | pitTick
  | identifyDone
  | hostTake (u : PicUnit)
  | hostPending (u : PicUnit)
  deriving DecidableEq, Repr

/-- One constructor for each mnemonic of the opcode table; the rows of one mnemonic differ in the operand shown. -/
inductive Instr where
  -- 41_pic.md
  | picIcw1 (u : PicUnit) (b : Byte)
  | picIcw2 (u : PicUnit) (b : Byte)
  | picIcw3 (u : PicUnit) (b : Byte)
  | picIcw4 (u : PicUnit) (b : Byte)
  | picOcw1 (u : PicUnit) (b : Byte)
  | picNseoi (u : PicUnit)
  | picSeoi (u : PicUnit) (l : BitVec 3)
  | picRotNseoi (u : PicUnit)
  | picRotSeoi (u : PicUnit) (l : BitVec 3)
  | picSetpri (u : PicUnit) (l : BitVec 3)
  | picRotAeoiSet (u : PicUnit)
  | picRotAeoiClr (u : PicUnit)
  | picOcw2Nop (u : PicUnit)
  | picOcw3 (u : PicUnit) (b : Byte)
  | picDataRead (u : PicUnit)
  -- 42_pit.md
  | pitCw (c : PitChan) (rw : BitVec 2) (m : BitVec 3) (bcd : Bool)
  | pitLatch (c : PitChan)
  | pitReadback (countN statusN : Bool) (sel : BitVec 3)
  | pitWLsb (c : PitChan) (b : Byte)
  | pitWMsb (c : PitChan) (b : Byte)
  | pitWLow (c : PitChan) (b : Byte)
  | pitWHigh (c : PitChan) (b : Byte)
  | pitDataRead (c : PitChan)
  | pitRLatched (c : PitChan)
  | pitRLive (c : PitChan)
  -- 43_kbc.md
  | kbcStatusRead
  | kbcDataRead
  | kbcReadConfig
  | kbcWriteConfig
  | kbcDisablePort2
  | kbcEnablePort2
  | kbcSelfTest
  | kbcTestPort1
  | kbcDisablePort1
  | kbcEnablePort1
  | kbcReadOutport
  | kbcWriteOutport
  | kbcConfigPayload (b : Byte)
  | kbcOutportPayload (b : Byte)
  | kbdScansetArg (b : Byte)
  | kbdSetScanset
  | kbdEnableScan
  | kbdDisableScan
  | kbdReset
  -- 44_ata.md
  | ataLatchWrite (r : AtaLatch) (b : Byte)
  | ataLatchRead (r : AtaReadLatch)
  | ataErrorRead
  | ataStatusRead
  | ataAltstatusRead
  | ataNop
  | ataIdentifyPacket
  | ataIdentify
  | ataPacket
  | ataDataWrite (w : DataWidth) (count : BitVec 32)
  | ataDataRead (w : DataWidth) (count : BitVec 32)
  | ataDevctl (b : Byte)
  | cdbRead10 (lba : BitVec 32) (cnt : BitVec 16)
  | cdbTestUnitReady
  -- 45_dma.md
  | dmaMode (k : DmaUnit) (b : Byte)
  | dmaSingleMask (k : DmaUnit) (set : Bool) (i : BitVec 2)
  | dmaMasterReset (k : DmaUnit)
  -- 46_pci.md
  | pciAddrWrite (v : Word)
  | pciAddrRead
  | pciDataRead (size : Size) (lane : BitVec 2)
  | pciDataWrite (size : Size) (lane : BitVec 2) (v : Word)
  -- 47_cmos.md
  | cmosIndex (b : Byte)
  | cmosDataRead
  | cmosDataWrite (b : Byte)
  -- the internal steps
  | picTick (ie : Bool)
  | pitTick
  | ataIdentifyDone
  | hostTake (u : PicUnit)
  | hostPending (u : PicUnit)
  deriving DecidableEq, Repr

/-- What the environment hands the block next: a trapped port access with the bytes the host has put at `buffer_offset` (R160), or
the turn of another agent (20_memory.md R112). -/
inductive Input where
  | trap (d : Descriptor) (host : List Byte)
  | agent (a : AgentStep)
  deriving DecidableEq, Repr

end Sys2Proof
end

