-- ==== Sys2Proof/WellFormed.lean ====
section
/-! DEFINITION. Which instruction terms an encoding can stand for (30_encoding.md). -/

namespace Sys2Proof

/-- R132: an ICW1 has bit 4 set. R132: an OCW3 has bits 4:3 = 0b01. R138: a control word's RW is not 0b00. R166: an ATA data
access has a count of at least 1. R12: a size-n OUT carries an n-byte value. Every other operand admits every value. -/
def Instr.wf : Instr → Bool
  | .picIcw1 _ b => b.getLsbD 4
  | .picOcw3 _ b => b.getLsbD 3 && !b.getLsbD 4
  | .pitCw _ rw _ _ => rw != 0
  | .ataDataWrite _ count => count != 0
  | .ataDataRead _ count => count != 0
  | .pciDataWrite size _ v => decide (v.toNat < 2 ^ (8 * size.bytes))
  | _ => true

end Sys2Proof
end

