-- ==== Sys2Proof/Decode.lean ====
section
/-! DEFINITION. Decoding of transactions (30_encoding.md R130, R131; 40_dispatch.md R164 to R166), the encoder, and the opcode
table's words. Total: every transaction is either one instruction or a fatal reason. -/

namespace Sys2Proof

/-- What the decoder reads of a transaction: the descriptor but for its offset, and the first four payload bytes as one
little-endian value (20_memory.md R100); an OUT of n bytes uses the low n of them. -/
structure Wire where
  dir : Dir
  size : Size
  port : BitVec 16
  count : BitVec 32
  imm : Word
  deriving DecidableEq, Repr

/-- An instruction's code: a port transaction, the twelve bytes of a CDB (R145), or an agent's turn (format `internal`). -/
inductive Code where
  | port (w : Wire)
  | cdb (bytes : List Byte)
  | agent (a : AgentStep)
  deriving DecidableEq, Repr

/-- `Sel[7:0]` of an OUT (R130). -/
def Wire.byte (w : Wire) : Byte := w.imm.extractLsb' 0 8

/-- The n-byte value of an OUT (R12, R154). -/
def Wire.value (w : Wire) : Word :=
  match w.size with
  | .b1 => (w.imm.extractLsb' 0 8).setWidth 32
  | .b2 => (w.imm.extractLsb' 0 16).setWidth 32
  | .b4 => w.imm

/-! ## The selector word (R130) -/

def Size.selCode : Size → BitVec 3
  | .b1 => 0b001#3
  | .b2 => 0b010#3
  | .b4 => 0b100#3

def Size.ofSelCode (x : BitVec 3) : Option Size :=
  if x = 0b001#3 then some .b1 else if x = 0b010#3 then some .b2 else if x = 0b100#3 then some .b4 else none

/-- R130: `{dir, size, 0000, port, data0}`. -/
def Wire.sel (w : Wire) : Word :=
  match w.dir with
  | .out => (1#1 ++ w.size.selCode ++ 0#4 ++ w.port ++ w.byte : BitVec 32)
  | .inp => (0#1 ++ w.size.selCode ++ 0#4 ++ w.port ++ 0#8 : BitVec 32)

/-- The count-1 transaction a selector word names, its payload bytes past the first being 0. An IN's `data0` means nothing (the
table's masks leave it out; log 14). -/
def Wire.ofSel (x : Word) : Option Wire :=
  if x.extractLsb' 24 4 ≠ 0#4 then none
  else match Size.ofSelCode (x.extractLsb' 28 3) with
    | none => none
    | some size =>
      if x.getLsbD 31 then some ⟨.out, size, x.extractLsb' 8 16, 1#32, (x.extractLsb' 0 8).setWidth 32⟩
      else some ⟨.inp, size, x.extractLsb' 8 16, 1#32, 0#32⟩

/-! ## The port map and the acceptance table -/

/-- The port map at the end of start-up (20_memory.md R106, 40_dispatch.md R162). -/
def portMap : List PortRange :=
  [ ⟨0x0000, 0x000F, .dma0⟩, ⟨0x0020, 0x0021, .pic0⟩, ⟨0x0040, 0x0043, .pit⟩, ⟨0x0060, 0x0060, .kbc⟩,
    ⟨0x0064, 0x0064, .kbc⟩, ⟨0x0070, 0x0071, .cmos⟩, ⟨0x00A0, 0x00A1, .pic1⟩, ⟨0x00C0, 0x00DE, .dma1⟩,
    ⟨0x0170, 0x0177, .ata2⟩, ⟨0x01F0, 0x01F7, .ata⟩, ⟨0x0376, 0x0377, .ata2⟩, ⟨0x03F6, 0x03F7, .ata⟩,
    ⟨0x0CF8, 0x0CFF, .pci⟩ ]

/-- `p` lies in the registered range, both ends in (R161). -/
def PortRange.covers (r : PortRange) (p : BitVec 16) : Bool := decide (r.lo ≤ p) && decide (p ≤ r.hi)

/-- `S.ports[p]` (10_state.md R34). -/
def handlerAt (ports : List PortRange) (p : BitVec 16) : Option Handler :=
  (ports.find? (fun r => r.covers p)).map (·.handler)

/-- One row of the table of R166. -/
structure AcceptRow where
  lo : BitVec 16
  hi : BitVec 16
  ins : List Size
  outs : List Size
  /-- the count column: `≥ 1` when true, `1` when false -/
  many : Bool
  deriving DecidableEq, Repr

/-- R166, the rows that accept something. -/
def acceptTable : List AcceptRow :=
  [ ⟨0x0020, 0x0020, [], [.b1], false⟩, ⟨0x00A0, 0x00A0, [], [.b1], false⟩,
    ⟨0x0021, 0x0021, [.b1], [.b1], false⟩, ⟨0x00A1, 0x00A1, [.b1], [.b1], false⟩,
    ⟨0x0040, 0x0042, [.b1], [.b1], false⟩, ⟨0x0043, 0x0043, [], [.b1], false⟩,
    ⟨0x0060, 0x0060, [.b1], [.b1], false⟩, ⟨0x0064, 0x0064, [.b1], [.b1], false⟩,
    ⟨0x0070, 0x0070, [], [.b1], false⟩, ⟨0x0071, 0x0071, [.b1], [.b1], false⟩,
    ⟨0x000A, 0x000B, [], [.b1], false⟩, ⟨0x000D, 0x000D, [], [.b1], false⟩,
    ⟨0x00D4, 0x00D4, [], [.b1], false⟩, ⟨0x00D6, 0x00D6, [], [.b1], false⟩, ⟨0x00DA, 0x00DA, [], [.b1], false⟩,
    ⟨0x01F0, 0x01F0, [.b2, .b4], [.b2, .b4], true⟩, ⟨0x01F1, 0x01F7, [.b1], [.b1], false⟩,
    ⟨0x03F6, 0x03F6, [.b1], [.b1], false⟩,
    ⟨0x0CF8, 0x0CF8, [.b4], [.b4], false⟩, ⟨0x0CFC, 0x0CFF, [.b1, .b2, .b4], [.b1, .b2, .b4], false⟩ ]

def AcceptRow.sizes (r : AcceptRow) : Dir → List Size
  | .inp => r.ins
  | .out => r.outs

/-- `Accepted(d)` of R166; a count of 0 is never accepted. -/
def accepted (w : Wire) : Bool :=
  acceptTable.any fun r =>
    decide (r.lo ≤ w.port) && decide (w.port ≤ r.hi) && decide (w.size ∈ r.sizes w.dir) &&
      (if r.many then w.count != 0 else w.count == 1)

/-! ## The sequencing state the choice of a row depends on (R131 (4), 10_state.md R80) -/

/-- One timer channel's cursors. -/
structure PitSeq where
  access : BitVec 2
  lowNext : Bool
  slPend : Bool
  clPend : Bool
  deriving DecidableEq, Repr

structure SeqState where
  ports : List PortRange
  picInit0 : PicInit
  picInit1 : PicInit
  pit0 : PitSeq
  pit1 : PitSeq
  pit2 : PitSeq
  kbcExpect : KbcExpect
  kbdExpect : KbdExpect
  kbcForward : Bool
  /-- `status.BSY = 1` or `tag ≠ none` (44_ata.md R327) -/
  ataBusy : Bool
  deriving DecidableEq, Repr

def SeqState.picInit (c : SeqState) : PicUnit → PicInit
  | .primary => c.picInit0
  | .secondary => c.picInit1

def SeqState.pit (c : SeqState) : PitChan → PitSeq
  | .c0 => c.pit0
  | .c1 => c.pit1
  | .c2 => c.pit2

/-! ## Big-endian fields of the CDB (20_memory.md R101) -/

/-- `BE` of four bytes (00_scope.md R10). -/
def be32 (b0 b1 b2 b3 : Byte) : BitVec 32 := b0 ++ b1 ++ b2 ++ b3

/-- `BE` of two bytes (R10). -/
def be16 (b0 b1 : Byte) : BitVec 16 := b0 ++ b1

/-! ## Decoding, family by family -/

/-- R132, R136: a PIC command byte, by bit 4, then bits 4:3, then the OCW2 code. -/
def decodePicCommand (u : PicUnit) (b : Byte) : Instr :=
  if b.getLsbD 4 then .picIcw1 u b
  else if b.getLsbD 3 then .picOcw3 u b
  else
    let l := b.extractLsb' 0 3
    let code := b.extractLsb' 5 3
    if code = 0b001#3 then .picNseoi u
    else if code = 0b011#3 then .picSeoi u l
    else if code = 0b101#3 then .picRotNseoi u
    else if code = 0b111#3 then .picRotSeoi u l
    else if code = 0b110#3 then .picSetpri u l
    else if code = 0b100#3 then .picRotAeoiSet u
    else if code = 0b000#3 then .picRotAeoiClr u
    else .picOcw2Nop u

/-- R134, R135, R131 (4): a PIC data byte, by the unit's `init` cursor. -/
def decodePicData (init : PicInit) (u : PicUnit) (b : Byte) : Instr :=
  match init with
  | .icw1 => .picOcw1 u b
  | .icw2 => .picIcw2 u b
  | .icw3 => .picIcw3 u b
  | .icw4 => .picIcw4 u b

def decodePic (c : SeqState) (u : PicUnit) (command : BitVec 16) (w : Wire) : Except FatalReason Instr :=
  if w.port = command then
    match w.dir with
    | .out => .ok (decodePicCommand u w.byte)
    | .inp => .error .unmappedAccess
  else if w.port = command + 1 then
    match w.dir with
    | .out => .ok (decodePicData (c.picInit u) u w.byte)
    | .inp => .ok (.picDataRead u)
  else .error .unmappedAccess

/-- 42_pit.md R241: read-back, counter latch or control word. -/
def decodePitCommand (b : Byte) : Instr :=
  let sc := b.extractLsb' 6 2
  let rw := b.extractLsb' 4 2
  if sc = 0b11#2 then .pitReadback (b.getLsbD 5) (b.getLsbD 4) (b.extractLsb' 1 3)
  else
    let ch : PitChan := if sc = 0b00#2 then .c0 else if sc = 0b01#2 then .c1 else .c2
    if rw = 0b00#2 then .pitLatch ch else .pitCw ch rw (b.extractLsb' 1 3) (b.getLsbD 0)

/-- 42_pit.md R245. An unprogrammed channel (access 0b00) has no row of its own; all four rows raise F04 there (log 12). -/
def decodePitWrite (q : PitSeq) (ch : PitChan) (b : Byte) : Instr :=
  if q.access = 0b10#2 then .pitWMsb ch b
  else if q.access = 0b11#2 then (if q.lowNext then .pitWLow ch b else .pitWHigh ch b)
  else .pitWLsb ch b

/-- 42_pit.md R250: the status latch first, then the count latch, then the live value; the last two raise F04 on an unprogrammed
channel (R251). -/
def decodePitRead (q : PitSeq) (ch : PitChan) : Instr :=
  if q.slPend then .pitDataRead ch else if q.clPend then .pitRLatched ch else .pitRLive ch

def decodePitData (c : SeqState) (ch : PitChan) (w : Wire) : Instr :=
  match w.dir with
  | .out => decodePitWrite (c.pit ch) ch w.byte
  | .inp => decodePitRead (c.pit ch) ch

def decodePit (c : SeqState) (w : Wire) : Except FatalReason Instr :=
  if w.port = 0x43 then
    match w.dir with
    | .out => .ok (decodePitCommand w.byte)
    | .inp => .error .unmappedAccess
  else if w.port = 0x40 then .ok (decodePitData c .c0 w)
  else if w.port = 0x41 then .ok (decodePitData c .c1 w)
  else if w.port = 0x42 then .ok (decodePitData c .c2 w)
  else .error .unmappedAccess

/-- R141 and 43_kbc.md R295: the expectation check comes before the classification, so a byte that is no command is F08 while a
payload is expected and F05 otherwise. -/
def decodeKbcCommand (expect : KbcExpect) (b : Byte) : Except FatalReason Instr :=
  if b = 0x20 then .ok .kbcReadConfig
  else if b = 0x60 then .ok .kbcWriteConfig
  else if b = 0xA7 then .ok .kbcDisablePort2
  else if b = 0xA8 then .ok .kbcEnablePort2
  else if b = 0xAA then .ok .kbcSelfTest
  else if b = 0xAB then .ok .kbcTestPort1
  else if b = 0xAD then .ok .kbcDisablePort1
  else if b = 0xAE then .ok .kbcEnablePort1
  else if b = 0xD0 then .ok .kbcReadOutport
  else if b = 0xD1 then .ok .kbcWriteOutport
  else if expect = .none then .error .unrecognizedCommand
  else .error .initSequenceViolation

/-- 43_kbc.md R296, R304, R305; the byte values are R142's. -/
def decodeKbcData (c : SeqState) (b : Byte) : Except FatalReason Instr :=
  match c.kbcExpect with
  | .config => .ok (.kbcConfigPayload b)
  | .outport => .ok (.kbcOutportPayload b)
  | .none =>
    if c.kbcForward = false then .error .dataWriteNotRequested
    else match c.kbdExpect with
      | .scansetArg => .ok (.kbdScansetArg b)
      | .none =>
        if b = 0xF0 then .ok .kbdSetScanset
        else if b = 0xF4 then .ok .kbdEnableScan
        else if b = 0xF5 then .ok .kbdDisableScan
        else if b = 0xFF then .ok .kbdReset
        else .error .unrecognizedCommand

def decodeKbc (c : SeqState) (w : Wire) : Except FatalReason Instr :=
  if w.port = 0x60 then
    match w.dir with
    | .out => decodeKbcData c w.byte
    | .inp => .ok .kbcDataRead
  else if w.port = 0x64 then
    match w.dir with
    | .out => decodeKbcCommand c.kbcExpect w.byte
    | .inp => .ok .kbcStatusRead
  else .error .unmappedAccess

/-- R144 and 44_ata.md R327: the busy check comes before the classification, so a byte that is no command is F11 while the channel
is busy and F05 otherwise. -/
def decodeAtaCommand (busy : Bool) (b : Byte) : Except FatalReason Instr :=
  if b = 0x00 then .ok .ataNop
  else if b = 0xA1 then .ok .ataIdentifyPacket
  else if b = 0xEC then .ok .ataIdentify
  else if b = 0xA0 then .ok .ataPacket
  else if busy then .error .busy
  else .error .unrecognizedCommand

/-- R143: the data port, sizes 2 and 4 only. -/
def decodeAtaData (w : Wire) : Except FatalReason Instr :=
  match w.size, w.dir with
  | .b2, .out => .ok (.ataDataWrite .w2 w.count)
  | .b4, .out => .ok (.ataDataWrite .w4 w.count)
  | .b2, .inp => .ok (.ataDataRead .w2 w.count)
  | .b4, .inp => .ok (.ataDataRead .w4 w.count)
  | .b1, _ => .error .unmappedAccess

/-- R143: the taskfile and the device-control port. -/
def decodeAta (c : SeqState) (w : Wire) : Except FatalReason Instr :=
  if w.port = 0x1F0 then decodeAtaData w
  else match w.dir with
    | .out =>
      if w.port = 0x1F1 then .ok (.ataLatchWrite .features w.byte)
      else if w.port = 0x1F2 then .ok (.ataLatchWrite .seccount w.byte)
      else if w.port = 0x1F3 then .ok (.ataLatchWrite .lba0 w.byte)
      else if w.port = 0x1F4 then .ok (.ataLatchWrite .lba1 w.byte)
      else if w.port = 0x1F5 then .ok (.ataLatchWrite .lba2 w.byte)
      else if w.port = 0x1F6 then .ok (.ataLatchWrite .drvhead w.byte)
      else if w.port = 0x1F7 then decodeAtaCommand c.ataBusy w.byte
      else if w.port = 0x3F6 then .ok (.ataDevctl w.byte)
      else .error .unmappedAccess
    | .inp =>
      if w.port = 0x1F1 then .ok .ataErrorRead
      else if w.port = 0x1F2 then .ok (.ataLatchRead .seccount)
      else if w.port = 0x1F3 then .ok (.ataLatchRead .lba0)
      else if w.port = 0x1F4 then .ok (.ataLatchRead .lba1)
      else if w.port = 0x1F5 then .ok (.ataLatchRead .lba2)
      else if w.port = 0x1F6 then .ok (.ataLatchRead .drvhead)
      else if w.port = 0x1F7 then .ok .ataStatusRead
      else if w.port = 0x3F6 then .ok .ataAltstatusRead
      else .error .unmappedAccess

/-- R146, R147: the three functional DMA ports of a unit; every other DMA access is F04 (45_dma.md R384). -/
def decodeDma (k : DmaUnit) (maskPort modePort resetPort : BitVec 16) (w : Wire) : Except FatalReason Instr :=
  match w.dir with
  | .inp => .error .unmappedAccess
  | .out =>
    if w.port = maskPort then .ok (.dmaSingleMask k (w.byte.getLsbD 2) (w.byte.extractLsb' 0 2))
    else if w.port = modePort then .ok (.dmaMode k w.byte)
    else if w.port = resetPort then .ok (.dmaMasterReset k)
    else .error .unmappedAccess

/-- 46_pci.md R395; the lane of a data access is `port − 0xCFC` (R399). -/
def decodePci (w : Wire) : Except FatalReason Instr :=
  if w.port = 0xCF8 then
    match w.dir with
    | .out => .ok (.pciAddrWrite w.imm)
    | .inp => .ok .pciAddrRead
  else if w.port.extractLsb' 2 14 = 0x33F#14 then
    match w.dir with
    | .out => .ok (.pciDataWrite w.size (w.port.extractLsb' 0 2) w.value)
    | .inp => .ok (.pciDataRead w.size (w.port.extractLsb' 0 2))
  else .error .unmappedAccess

/-- 47_cmos.md R410. -/
def decodeCmos (w : Wire) : Except FatalReason Instr :=
  if w.port = 0x70 then
    match w.dir with
    | .out => .ok (.cmosIndex w.byte)
    | .inp => .error .unmappedAccess
  else if w.port = 0x71 then
    match w.dir with
    | .out => .ok (.cmosDataWrite w.byte)
    | .inp => .ok .cmosDataRead
  else .error .unmappedAccess

/-- R165: the handler's own decoding. -/
def decodeHandler (c : SeqState) (h : Handler) (w : Wire) : Except FatalReason Instr :=
  match h with
  | .pic0 => decodePic c .primary 0x20 w
  | .pic1 => decodePic c .secondary 0xA0 w
  | .pit => decodePit c w
  | .kbc => decodeKbc c w
  | .ata => decodeAta c w
  | .ata2 => .error .unmappedAccess
  | .dma0 => decodeDma .slave 0x0A 0x0B 0x0D w
  | .dma1 => decodeDma .master 0xD4 0xD6 0xDA w
  | .pci => decodePci w
  | .cmos => decodeCmos w

/-- R131 and 40_dispatch.md R164: the handler (else F03), the acceptance table (else F04), then the family. -/
def decodePort (c : SeqState) (w : Wire) : Except FatalReason Instr :=
  match handlerAt c.ports w.port with
  | none => .error .unclaimedPort
  | some h => if accepted w then decodeHandler c h w else .error .unmappedAccess

/-- R145, 44_ata.md R351: the CDB's opcode and big-endian fields; any other opcode is F05 (R354). -/
def decodeCdb (cdb : List Byte) : Except FatalReason Instr :=
  if cdb.getD 0 0 = 0x28 then
    .ok (.cdbRead10 (be32 (cdb.getD 2 0) (cdb.getD 3 0) (cdb.getD 4 0) (cdb.getD 5 0)) (be16 (cdb.getD 7 0) (cdb.getD 8 0)))
  else if cdb.getD 0 0 = 0x00 then .ok .cdbTestUnitReady
  else .error .unrecognizedCommand

def AgentStep.instr : AgentStep → Instr
  | .picTick ie => .picTick ie
  | .pitTick => .pitTick
  | .identifyDone => .ataIdentifyDone
  | .hostTake u => .hostTake u
  | .hostPending u => .hostPending u

/-- The decoder: the instruction a code stands for in a sequencing state, or the fatal reason it raises. -/
def decode (c : SeqState) : Code → Except FatalReason Instr
  | .port w => decodePort c w
  | .cdb bytes => decodeCdb bytes
  | .agent a => .ok a.instr

/-! ## The encoder, from the same tables -/

def Wire.out1 (port : BitVec 16) (b : Byte) : Wire := ⟨.out, .b1, port, 1, b.setWidth 32⟩
def Wire.in1 (port : BitVec 16) : Wire := ⟨.inp, .b1, port, 1, 0⟩

def PicUnit.commandPort : PicUnit → BitVec 16
  | .primary => 0x20
  | .secondary => 0xA0

def PicUnit.dataPort : PicUnit → BitVec 16
  | .primary => 0x21
  | .secondary => 0xA1

def PitChan.code : PitChan → BitVec 2
  | .c0 => 0b00
  | .c1 => 0b01
  | .c2 => 0b10

def PitChan.port : PitChan → BitVec 16
  | .c0 => 0x40
  | .c1 => 0x41
  | .c2 => 0x42

def AtaLatch.port : AtaLatch → BitVec 16
  | .features => 0x1F1
  | .seccount => 0x1F2
  | .lba0 => 0x1F3
  | .lba1 => 0x1F4
  | .lba2 => 0x1F5
  | .drvhead => 0x1F6

def AtaReadLatch.latch : AtaReadLatch → AtaLatch
  | .seccount => .seccount
  | .lba0 => .lba0
  | .lba1 => .lba1
  | .lba2 => .lba2
  | .drvhead => .drvhead

def DmaUnit.maskPort : DmaUnit → BitVec 16
  | .slave => 0x0A
  | .master => 0xD4

def DmaUnit.modePort : DmaUnit → BitVec 16
  | .slave => 0x0B
  | .master => 0xD6

def DmaUnit.resetPort : DmaUnit → BitVec 16
  | .slave => 0x0D
  | .master => 0xDA

/-- `{code, 00, L}` (R136). -/
def ocw2Byte (code : BitVec 3) (l : BitVec 3) : Byte := (code ++ 0b00#2 ++ l : BitVec 8)

/-- `{SC, RW, M, BCD}` (R138). -/
def pitControlByte (sc rw : BitVec 2) (m : BitVec 3) (bcd : Bool) : Byte := (sc ++ rw ++ m ++ BitVec.ofBool bcd : BitVec 8)

/-- `{11, COUNT#, STATUS#, select, 0}` (R139). -/
def pitReadbackByte (countN statusN : Bool) (sel : BitVec 3) : Byte :=
  (0b11#2 ++ BitVec.ofBool countN ++ BitVec.ofBool statusN ++ sel ++ 0#1 : BitVec 8)

/-- `{00000, set, i}` (R147). -/
def dmaMaskByte (set : Bool) (i : BitVec 2) : Byte := (0#5 ++ BitVec.ofBool set ++ i : BitVec 8)

/-- The READ(10) CDB of R145, ignored bytes 0. -/
def read10Cdb (lba : BitVec 32) (cnt : BitVec 16) : List Byte :=
  [0x28, 0, lba.extractLsb' 24 8, lba.extractLsb' 16 8, lba.extractLsb' 8 8, lba.extractLsb' 0 8, 0,
    cnt.extractLsb' 8 8, cnt.extractLsb' 0 8, 0, 0, 0]

/-- The code of an instruction, don't-care bits 0. -/
def encode : Instr → Code
  | .picIcw1 u b => .port (.out1 u.commandPort b)
  | .picIcw2 u b => .port (.out1 u.dataPort b)
  | .picIcw3 u b => .port (.out1 u.dataPort b)
  | .picIcw4 u b => .port (.out1 u.dataPort b)
  | .picOcw1 u b => .port (.out1 u.dataPort b)
  | .picNseoi u => .port (.out1 u.commandPort (ocw2Byte 0b001 0))
  | .picSeoi u l => .port (.out1 u.commandPort (ocw2Byte 0b011 l))
  | .picRotNseoi u => .port (.out1 u.commandPort (ocw2Byte 0b101 0))
  | .picRotSeoi u l => .port (.out1 u.commandPort (ocw2Byte 0b111 l))
  | .picSetpri u l => .port (.out1 u.commandPort (ocw2Byte 0b110 l))
  | .picRotAeoiSet u => .port (.out1 u.commandPort (ocw2Byte 0b100 0))
  | .picRotAeoiClr u => .port (.out1 u.commandPort (ocw2Byte 0b000 0))
  | .picOcw2Nop u => .port (.out1 u.commandPort (ocw2Byte 0b010 0))
  | .picOcw3 u b => .port (.out1 u.commandPort b)
  | .picDataRead u => .port (.in1 u.dataPort)
  | .pitCw c rw m bcd => .port (.out1 0x43 (pitControlByte c.code rw m bcd))
  | .pitLatch c => .port (.out1 0x43 (pitControlByte c.code 0b00 0 false))
  | .pitReadback countN statusN sel => .port (.out1 0x43 (pitReadbackByte countN statusN sel))
  | .pitWLsb c b => .port (.out1 c.port b)
  | .pitWMsb c b => .port (.out1 c.port b)
  | .pitWLow c b => .port (.out1 c.port b)
  | .pitWHigh c b => .port (.out1 c.port b)
  | .pitDataRead c => .port (.in1 c.port)
  | .pitRLatched c => .port (.in1 c.port)
  | .pitRLive c => .port (.in1 c.port)
  | .kbcStatusRead => .port (.in1 0x64)
  | .kbcDataRead => .port (.in1 0x60)
  | .kbcReadConfig => .port (.out1 0x64 0x20)
  | .kbcWriteConfig => .port (.out1 0x64 0x60)
  | .kbcDisablePort2 => .port (.out1 0x64 0xA7)
  | .kbcEnablePort2 => .port (.out1 0x64 0xA8)
  | .kbcSelfTest => .port (.out1 0x64 0xAA)
  | .kbcTestPort1 => .port (.out1 0x64 0xAB)
  | .kbcDisablePort1 => .port (.out1 0x64 0xAD)
  | .kbcEnablePort1 => .port (.out1 0x64 0xAE)
  | .kbcReadOutport => .port (.out1 0x64 0xD0)
  | .kbcWriteOutport => .port (.out1 0x64 0xD1)
  | .kbcConfigPayload b => .port (.out1 0x60 b)
  | .kbcOutportPayload b => .port (.out1 0x60 b)
  | .kbdScansetArg b => .port (.out1 0x60 b)
  | .kbdSetScanset => .port (.out1 0x60 0xF0)
  | .kbdEnableScan => .port (.out1 0x60 0xF4)
  | .kbdDisableScan => .port (.out1 0x60 0xF5)
  | .kbdReset => .port (.out1 0x60 0xFF)
  | .ataLatchWrite r b => .port (.out1 r.port b)
  | .ataLatchRead r => .port (.in1 r.latch.port)
  | .ataErrorRead => .port (.in1 0x1F1)
  | .ataStatusRead => .port (.in1 0x1F7)
  | .ataAltstatusRead => .port (.in1 0x3F6)
  | .ataNop => .port (.out1 0x1F7 0x00)
  | .ataIdentifyPacket => .port (.out1 0x1F7 0xA1)
  | .ataIdentify => .port (.out1 0x1F7 0xEC)
  | .ataPacket => .port (.out1 0x1F7 0xA0)
  | .ataDataWrite w count => .port ⟨.out, w.size, 0x1F0, count, 0⟩
  | .ataDataRead w count => .port ⟨.inp, w.size, 0x1F0, count, 0⟩
  | .ataDevctl b => .port (.out1 0x3F6 b)
  | .cdbRead10 lba cnt => .cdb (read10Cdb lba cnt)
  | .cdbTestUnitReady => .cdb (List.replicate 12 0)
  | .dmaMode k b => .port (.out1 k.modePort b)
  | .dmaSingleMask k set i => .port (.out1 k.maskPort (dmaMaskByte set i))
  | .dmaMasterReset k => .port (.out1 k.resetPort 0)
  | .pciAddrWrite v => .port ⟨.out, .b4, 0xCF8, 1, v⟩
  | .pciAddrRead => .port ⟨.inp, .b4, 0xCF8, 1, 0⟩
  | .pciDataRead size lane => .port ⟨.inp, size, (0x33F#14 ++ lane : BitVec 16), 1, 0⟩
  | .pciDataWrite size lane v => .port ⟨.out, size, (0x33F#14 ++ lane : BitVec 16), 1, v⟩
  | .cmosIndex b => .port (.out1 0x70 b)
  | .cmosDataRead => .port (.in1 0x71)
  | .cmosDataWrite b => .port (.out1 0x71 b)
  | .picTick ie => .agent (.picTick ie)
  | .pitTick => .agent .pitTick
  | .ataIdentifyDone => .agent .identifyDone
  | .hostTake u => .agent (.hostTake u)
  | .hostPending u => .agent (.hostPending u)

/-- The state condition of an instruction's table row, as far as it chooses between rows (R131 (4)): in a sequencing state that
meets it, the instruction's code stands for that instruction and no other. -/
def Instr.rowCondition (c : SeqState) : Instr → Bool
  | .picIcw2 u _ => c.picInit u == .icw2
  | .picIcw3 u _ => c.picInit u == .icw3
  | .picIcw4 u _ => c.picInit u == .icw4
  | .picOcw1 u _ => c.picInit u == .icw1
  | .pitWLsb ch _ => (c.pit ch).access == 0b01
  | .pitWMsb ch _ => (c.pit ch).access == 0b10
  | .pitWLow ch _ => (c.pit ch).access == 0b11 && (c.pit ch).lowNext
  | .pitWHigh ch _ => (c.pit ch).access == 0b11 && !(c.pit ch).lowNext
  | .pitDataRead ch => (c.pit ch).slPend
  | .pitRLatched ch => !(c.pit ch).slPend && (c.pit ch).clPend
  | .pitRLive ch => !(c.pit ch).slPend && !(c.pit ch).clPend
  | .kbcConfigPayload _ => c.kbcExpect == .config
  | .kbcOutportPayload _ => c.kbcExpect == .outport
  | .kbdScansetArg _ => c.kbcExpect == .none && c.kbcForward && c.kbdExpect == .scansetArg
  | .kbdSetScanset => c.kbcExpect == .none && c.kbcForward && c.kbdExpect == .none
  | .kbdEnableScan => c.kbcExpect == .none && c.kbcForward && c.kbdExpect == .none
  | .kbdDisableScan => c.kbcExpect == .none && c.kbcForward && c.kbdExpect == .none
  | .kbdReset => c.kbcExpect == .none && c.kbcForward && c.kbdExpect == .none
  | _ => true

/-! ## The opcode table's words -/

/-- The sequencing state right after reset (10_state.md R35, R41, R45, R50). -/
def SeqState.reset : SeqState where
  ports := portMap
  picInit0 := .icw1
  picInit1 := .icw1
  pit0 := ⟨0, true, false, false⟩
  pit1 := ⟨0, true, false, false⟩
  pit2 := ⟨0, true, false, false⟩
  kbcExpect := .none
  kbdExpect := .none
  kbcForward := true
  ataBusy := false

/-- The sequencing state a table word is read in (log 13): reset's; and for a word that is no instruction there, reset's with the
configuration byte expected. -/
def tableSeq (w : Wire) : SeqState :=
  match decodePort SeqState.reset w with
  | .ok _ => SeqState.reset
  | .error _ => { SeqState.reset with kbcExpect := .config }

/-- The instruction a word of spec/opcode_table.json stands for: a 32-bit selector word (R130), or the 8-bit opcode byte of a CDB
whose other bytes are 0 (R145). -/
def decodeTableWord (nbits w : Nat) : Option Instr :=
  if nbits = 8 then (decodeCdb (BitVec.ofNat 8 w :: List.replicate 11 0)).toOption
  else if nbits = 32 then
    match Wire.ofSel (BitVec.ofNat 32 w) with
    | none => none
    | some t => (decodePort (tableSeq t) t).toOption
  else none

end Sys2Proof
end

