-- ==== Sys2Proof/Machine/State.lean ====
section
/-! DEFINITION. The block state `S` of 10_state.md R32, the environment the block is driven by, and reset (70_reset_and_hazards.md
R460, R462). Plain data throughout. -/

namespace Sys2Proof.Machine

/-- Why a step stops the machine. -/
inductive Fault where
  /-- Raised by `step` when `S.fatal` is already set: no step of any agent is enabled (40_dispatch.md R167). Safe: the block has
  terminated, and nothing follows. -/
  | terminated (reason : FatalReason)
  deriving DecidableEq, Repr

/-- Why a step has no meaning. -/
inductive Refusal where
  /-- Raised by an arm of `exec` whose instruction has no meaning yet; none is left. Safe. -/
  | notModelled (mnemonic : String)
  deriving DecidableEq, Repr

/-- The data-port read target `rsel` (10_state.md R35). -/
inductive PicReg where
  | imr
  | irr
  | isr
  deriving DecidableEq, Repr

/-- One interrupt controller unit (R35). -/
structure Pic where
  init : PicInit
  icw1 : Byte
  icw2 : Byte
  icw3 : Byte
  icw4 : Byte
  imr : Byte
  irr : Byte
  isr : Byte
  /-- the lowest-priority level -/
  prio : BitVec 3
  rsel : PicReg
  poll : Bool
  smm : Bool
  rotAeoi : Bool
  deriving DecidableEq, Repr

/-- One timer channel (R41). -/
structure Pit where
  reload : Half
  count : Half
  access : BitVec 2
  mode : BitVec 3
  bcd : Bool
  lowNext : Bool
  nullCount : Bool
  clPend : Bool
  clVal : Half
  slPend : Bool
  slVal : Byte
  deriving DecidableEq, Repr

/-- The keyboard controller and its pass-through keyboard (R45). Bit 0 of `status` is never reported (R46). -/
structure Kbc where
  status : Byte
  config : Byte
  outport : Byte
  fifo : List Byte
  expect : KbcExpect
  devExpect : KbdExpect
  deriving DecidableEq, Repr

/-- `ata.tag` (R50); the IDENTIFY worker exists exactly while it is `identify u` (R80). -/
inductive AtaTag where
  | none
  | cdbIncoming
  | identify (u : AtaUnit)
  deriving DecidableEq, Repr

/-- The ATA channel (R50). -/
structure Ata where
  features : Byte
  seccount : Byte
  lba0 : Byte
  lba1 : Byte
  lba2 : Byte
  drvhead : Byte
  status : Byte
  error : Byte
  devctl : Byte
  dbuf : List Byte
  dsize : Nat
  dread : Nat
  cdb : List Byte
  clen : Nat
  tag : AtaTag
  deriving DecidableEq, Repr

/-- One DMA unit (R60). -/
structure Dma where
  mode : Byte
  mask : Byte
  flipflop : Bool
  status : Byte
  deriving DecidableEq, Repr

/-- PCI configuration space (R62). -/
structure Pci where
  addr : Word
  curIndex : Nat
  curReg : BitVec 6
  blocks : List (List Byte)
  deriving DecidableEq, Repr

/-- CMOS (R64). -/
structure Cmos where
  idx : BitVec 7
  nmiDis : Bool
  regs : List Byte
  deriving DecidableEq, Repr

/-- The fatal record of 60_exceptions.md R422; F01 has a port only, F02 none of the descriptor's fields. -/
structure FatalRecord where
  reason : FatalReason
  cls : FatalClass
  port : Option (BitVec 16)
  dir : Option Dir
  size : Option Size
  count : Option (BitVec 32)
  byte : Option Byte
  deriving DecidableEq, Repr

/-- A host-visible event (R33). -/
inductive Event where
  | inject (v : Byte)
  | fatal (r : FatalRecord)
  deriving DecidableEq, Repr

/-- `S` of R32, then the model's own fields: the host buffer with the descriptor in scope (R71, R12), the open parameters (R6), the
inputs to come (R112), the draw counter (42_pit.md R255) and the answer to HOST_PENDING (41_pic.md R213). -/
structure State where
  ports : List PortRange
  pic0 : Pic
  pic1 : Pic
  pit0 : Pit
  pit1 : Pit
  pit2 : Pit
  kbc : Kbc
  ata : Ata
  dma0 : Dma
  dma1 : Dma
  pci : Pci
  cmos : Cmos
  fatal : Option FatalRecord
  events : List Event
  mem : Memory
  cur : Descriptor
  params : Params
  inputs : List Input
  draws : Nat
  hostAnswer : Option Bool
  deriving DecidableEq, Repr

/-! ## Reset -/

/-- R35 to R40. -/
def Pic.reset (base : Byte) : Pic where
  init := .icw1
  icw1 := 0x00
  icw2 := base
  icw3 := 0x00
  icw4 := 0x00
  imr := 0xFF
  irr := 0x00
  isr := 0x00
  prio := 7
  rsel := .imr
  poll := false
  smm := false
  rotAeoi := false

/-- R41, R42. -/
def Pit.reset : Pit where
  reload := 0x0000
  count := 0x0000
  access := 0b00
  mode := 0
  bcd := false
  lowNext := true
  nullCount := true
  clPend := false
  clVal := 0x0000
  slPend := false
  slVal := 0x00

/-- R45, R48. -/
def Kbc.reset (p : Params) : Kbc where
  status := p.kbcStatusInit
  config := p.kbcConfigInit
  outport := p.kbcOutportInit
  fifo := []
  expect := .none
  devExpect := .none

/-- R50, R55. -/
def Ata.reset (p : Params) : Ata where
  features := 0x00
  seccount := 0x00
  lba0 := 0x00
  lba1 := 0x00
  lba2 := 0x00
  drvhead := 0x00
  status := 0x40
  error := 0x00
  devctl := 0x00
  dbuf := List.replicate p.ataBufCap 0x00
  dsize := 0
  dread := 0
  cdb := List.replicate 12 0x00
  clen := 0
  tag := .none

/-- R60, R61. -/
def Dma.reset : Dma where
  mode := 0x00
  mask := 0x0F
  flipflop := false
  status := 0x00

/-- 46_pci.md R396: `P_PCI_INIT(i)` with its fixed bytes. -/
def pciInitBlock (p : Params) (i : Nat) : List Byte :=
  if i = 0 then 0x86 :: 0x80 :: 0x37 :: 0x12 :: p.pciHostRest
  else if i = p.pciDisplayIndex then p.pciDisplay
  else List.replicate 256 0x00

/-- R63. -/
def Pci.reset (p : Params) : Pci where
  addr := 0x00000000
  curIndex := 0
  curReg := 0
  blocks := (List.range p.pciNumBlocks).map (pciInitBlock p)

/-- R64. -/
def Cmos.reset (p : Params) : Cmos where
  idx := 0
  nmiDis := false
  regs := p.cmosInit

/-- The descriptor before any transaction. DESIGN CHOICE (log 8): no rule reads it before the first transaction sets it. -/
def Descriptor.none : Descriptor where
  dir := .inp
  size := .b1
  port := 0
  count := 0
  offset := 0

/-- The state right after start-up with the parameters `p` (70_reset_and_hazards.md R460, R462). -/
def State.resetWith (p : Params) : State where
  ports := portMap
  pic0 := Pic.reset p.picResetBase0
  pic1 := Pic.reset p.picResetBase1
  pit0 := Pit.reset
  pit1 := Pit.reset
  pit2 := Pit.reset
  kbc := Kbc.reset p
  ata := Ata.reset p
  dma0 := Dma.reset
  dma1 := Dma.reset
  pci := Pci.reset p
  cmos := Cmos.reset p
  fatal := .none
  events := []
  mem := []
  cur := Descriptor.none
  params := p
  inputs := []
  draws := 0
  hostAnswer := .none

/-- The machine right after reset: process start with the launch parameters (R460). -/
def State.reset : State := State.resetWith Config.launch

/-! ## The indexed devices -/

def State.pic (s : State) : PicUnit → Pic
  | .primary => s.pic0
  | .secondary => s.pic1

def State.setPic (s : State) : PicUnit → Pic → State
  | .primary, p => { s with pic0 := p }
  | .secondary, p => { s with pic1 := p }

def State.pit (s : State) : PitChan → Pit
  | .c0 => s.pit0
  | .c1 => s.pit1
  | .c2 => s.pit2

def State.setPit (s : State) : PitChan → Pit → State
  | .c0, c => { s with pit0 := c }
  | .c1, c => { s with pit1 := c }
  | .c2, c => { s with pit2 := c }

def State.dma (s : State) : DmaUnit → Dma
  | .slave => s.dma0
  | .master => s.dma1

def State.setDma (s : State) : DmaUnit → Dma → State
  | .slave, d => { s with dma0 := d }
  | .master, d => { s with dma1 := d }

end Sys2Proof.Machine
end

