-- ==== Sys2Proof/Machine/Operands.lean ====
section
/-! DEFINITION. How operands are formed: the payload of a transaction, single bits of a register, the PCI address fields and data
offset, the byte lists of the arrays (30_encoding.md R154, 20_memory.md R100, 46_pci.md R397, R399). -/

namespace Sys2Proof.Machine

/-! ## The payload (00_scope.md R10, R12) -/

/-- `d.buffer_offset`, as an address of the host buffer. -/
def State.base (s : State) : Nat := s.cur.offset.toNat

/-- `MemRead(0, n)`. -/
def State.payload (s : State) (n : Nat) : List Byte := s.mem.readBytes s.base n

/-- The first four payload bytes as one little-endian value (20_memory.md R100). -/
def State.payloadWord (s : State) : Word :=
  (s.mem.read (s.base + 3) ++ s.mem.read (s.base + 2) ++ s.mem.read (s.base + 1) ++ s.mem.read s.base : BitVec 32)

/-- `MemWrite(0, n, bs)`. -/
def State.reply (s : State) (bs : List Byte) : State := { s with mem := s.mem.writeBytes s.base bs }

/-- `LEbytes(v, n)` of a 32-bit value, n at most 4 (R10, R100). -/
def leBytes (v : Word) (n : Nat) : List Byte :=
  (List.range n).map (fun i => v.extractLsb' (8 * i) 8)

/-! ## Bits of an 8-bit register by level (00_scope.md R8) -/

/-- The byte with bit `l` alone set. -/
def levelBit (l : BitVec 3) : Byte := 1#8 <<< l.toNat

/-- `v[l] <- 1`. -/
def setLevel (v : Byte) (l : BitVec 3) : Byte := v ||| levelBit l

/-- `v[l] <- 0`. -/
def clearLevel (v : Byte) (l : BitVec 3) : Byte := v &&& ~~~ levelBit l

/-! ## PCI address and offset -/

/-- `v[23:16]*32 + v[15:11]*8 + v[10:8]` (46_pci.md R397). -/
def pciIndexOf (v : Word) : Nat :=
  (v.extractLsb' 16 8).toNat * 32 + (v.extractLsb' 11 5).toNat * 8 + (v.extractLsb' 8 3).toNat

/-- `v[7:2]` (R397). -/
def pciRegOf (v : Word) : BitVec 6 := v.extractLsb' 2 6

/-- `cur_reg*4 + (p − 0xCFC)` (R399). -/
def pciOffset (p : Pci) (lane : BitVec 2) : Nat := p.curReg.toNat * 4 + lane.toNat

/-! ## Byte arrays -/

/-- `l[at .. at+n-1] <- bs`, n the length of `bs`: nothing past the array's end is written. -/
def overwrite (l : List Byte) (start : Nat) (bs : List Byte) : List Byte :=
  (l.take start ++ bs ++ l.drop (start + bs.length)).take l.length

/-- `l[at .. at+n-1]`. -/
def slice (l : List Byte) (start n : Nat) : List Byte := (l.drop start).take n

end Sys2Proof.Machine
end

