-- ==== Sys2Proof/Machine/Flags.lean ====
section
/-! DEFINITION. The status flags of 10_state.md R81: the ATA status bits (R51), the KBC status byte (R46), the PIT status byte
(30_encoding.md R140) and the pending interrupt bits (41_pic.md R211). -/

namespace Sys2Proof.Machine

/-! ## ATA status bits (R51) -/

def ataErr : Byte := 0x01
def ataDrq : Byte := 0x08
def ataDrdy : Byte := 0x40
def ataBsy : Byte := 0x80

/-- ABRT of the error register (R52). -/
def ataAbrt : Byte := 0x04

/-- `status.F <- 1` and leaves the other bits. -/
def setFlag (v flag : Byte) : Byte := v ||| flag

/-- `status.F <- 0` and leaves the other bits. -/
def clearFlag (v flag : Byte) : Byte := v &&& ~~~ flag

def Ata.bsy (a : Ata) : Bool := a.status.getLsbD 7
def Ata.drdy (a : Ata) : Bool := a.status.getLsbD 6
def Ata.drq (a : Ata) : Bool := a.status.getLsbD 3
def Ata.err (a : Ata) : Bool := a.status.getLsbD 0

/-- 44_ata.md R321: the drive bit of drive/head. -/
def Ata.unit (a : Ata) : AtaUnit := if a.drvhead.getLsbD 4 then .disk else .atapi

/-- R327: a command in progress. -/
def Ata.busy (a : Ata) : Bool := a.bsy || decide (a.tag ≠ .none)

/-! ## The KBC status byte (R46, 43_kbc.md R282) -/

/-- Bit 0 is the FIFO's occupancy, whatever is stored there. -/
def Kbc.statusByte (k : Kbc) : Byte := (k.status &&& 0xFE) ||| (if k.fifo = [] then 0x00 else 0x01)

/-! ## The PIT status byte (30_encoding.md R140, 42_pit.md R255) -/

/-- `{OUT, NULL COUNT, RW, M, BCD}`. -/
def Pit.statusByte (c : Pit) (out : Bool) : Byte :=
  (BitVec.ofBool out ++ BitVec.ofBool c.nullCount ++ c.access ++ c.mode ++ BitVec.ofBool c.bcd : BitVec 8)

/-! ## PIC requests -/

/-- `irr & ~imr` (41_pic.md R211). -/
def Pic.pending (p : Pic) : Byte := p.irr &&& ~~~ p.imr

/-- R186: the levels from highest to lowest priority, the cursor being the lowest. -/
def priorityOrder (prio : BitVec 3) : List (BitVec 3) :=
  [prio + 1, prio + 2, prio + 3, prio + 4, prio + 5, prio + 6, prio + 7, prio]

/-- R186 `FirstIn`. -/
def firstIn (prio : BitVec 3) (v : Byte) : Option (BitVec 3) :=
  (priorityOrder prio).find? (fun l => v.getLsbD l.toNat)

end Sys2Proof.Machine
end

