-- ==== Sys2Proof/Machine/Ops.lean ====
section
/-! DEFINITION. The operations shared by the instructions: the fatal termination (60_exceptions.md R421, R422), raising and taking an
interrupt (41_pic.md R210, R211), the KBC's Enqueue (43_kbc.md R281), the ATA Abort (44_ata.md R330), and the sequencing state the
decoder reads. -/

namespace Sys2Proof.Machine

/-! ## Fatal termination: the block's exception entry -/

/-- R420, R423: F01 and F02 are configuration errors, the others protocol violations. -/
def fatalClass : FatalReason → FatalClass
  | .duplicatePortRegistration => .a
  | .backingFileUnopenable => .a
  | _ => .b

/-- R422: the record of a fault of class (b), from the descriptor in scope and the host byte at its offset. -/
def fatalRecord (reason : FatalReason) (s : State) : FatalRecord where
  reason := reason
  cls := fatalClass reason
  port := some s.cur.port
  dir := some s.cur.dir
  size := some s.cur.size
  count := some s.cur.count
  byte := some (s.mem.read s.base)

/-- R421: the state before the step, with the record set and its event appended. -/
def recordFatal (r : FatalRecord) (s : State) : State :=
  { s with fatal := some r, events := s.events ++ [.fatal r] }

/-- R421 `raise Fatal(reason)` in the state the step began in. -/
def raiseFatal (reason : FatalReason) (s : State) : State := recordFatal (fatalRecord reason s) s

/-- What the body of a step comes to: a state, or the reason it is abandoned for. -/
abbrev Result := Except FatalReason State

/-- R421: a step that raises is abandoned whole. `s` is the state it began in. -/
def commit (s : State) : Result → Host.Outcome State Fault Refusal
  | .ok t => .next t
  | .error reason => .next (raiseFatal reason s)

/-! ## Interrupts -/

/-- R210, the admission to one level of one unit: dropped when pending, in service or masked. -/
def Pic.admitLevel (p : Pic) (l : BitVec 3) : Pic :=
  if p.irr.getLsbD l.toNat = false ∧ p.isr.getLsbD l.toNat = false ∧ p.imr.getLsbD l.toNat = false then
    { p with irr := setLevel p.irr l }
  else p

/-- R210 for an IRQ number 0..15: the unit is bit 3, the level bits 2:0. -/
def admitIrq (n : BitVec 4) (s : State) : State :=
  if n.getLsbD 3 then { s with pic1 := s.pic1.admitLevel (n.extractLsb' 0 3) }
  else { s with pic0 := s.pic0.admitLevel (n.extractLsb' 0 3) }

/-- R210 `PicRaise(n)`: F10 outside 0..15. -/
def picRaise (n : Nat) (s : State) : Result :=
  if n > 15 then .error .outOfRange else .ok (admitIrq (BitVec.ofNat 4 n) s)

/-- `PicRaise(n)` on a condition: only the two units can change. -/
def raiseWhen (c : Bool) (n : BitVec 4) (s : State) : State :=
  { s with
    pic0 := if c then (admitIrq n s).pic0 else s.pic0
    pic1 := if c then (admitIrq n s).pic1 else s.pic1 }

/-- R211: the vector a unit hands over and the unit afterwards. -/
def Pic.take (p : Pic) : Option (Byte × Pic) :=
  match firstIn p.prio p.pending with
  | none => none
  | some l =>
    let taken := { p with irr := clearLevel p.irr l }
    let after :=
      if p.icw4.getLsbD 1 = false then { taken with isr := setLevel p.isr l }
      else if p.rotAeoi then { taken with prio := l }
      else taken
    some (p.icw2 + l.setWidth 8, after)

/-- `v <- Take(u); if v ≠ none: Inject(v)` (R211, R214, 60_exceptions.md R447). -/
def deliverFrom (u : PicUnit) (s : State) : State :=
  match (s.pic u).take with
  | none => s
  | some (v, p) =>
    let t := s.setPic u p
    { t with events := t.events ++ [.inject v] }

/-- R181: a command-port write is F08 while initialization is in progress. -/
def picCommand (u : PicUnit) (f : Pic → Pic) (s : State) : Result :=
  if (s.pic u).init = .icw1 then .ok (s.setPic u (f (s.pic u))) else .error .initSequenceViolation

/-! ## Keyboard controller -/

/-- R281: the FIFO with the byte queued, IRQ1 admitted when configuration bit 0 is set. -/
def enqueued (b : Byte) (s : State) : State :=
  raiseWhen (s.kbc.config.getLsbD 0) 1 { s with kbc := { s.kbc with fifo := s.kbc.fifo ++ [b] } }

/-- 43_kbc.md R281 `Enqueue(b)`: F09 when the FIFO is full. -/
def enqueue (b : Byte) (s : State) : Result :=
  if s.kbc.fifo.length = s.params.kbcFifoCap then .error .capacityExceeded else .ok (enqueued b s)

/-- R295: a controller command is F08 while a payload is expected. -/
def kbcCommand (s : State) (r : Result) : Result :=
  if s.kbc.expect = .none then r else .error .initSequenceViolation

/-! ## ATA -/

/-- 44_ata.md R330 `Abort()`. -/
def Ata.abort (a : Ata) : Ata :=
  { a with
    status := clearFlag (clearFlag (setFlag a.status ataErr) ataBsy) ataDrq
    error := ataAbrt }

/-- R328, the error clear of every accepted command but NOP. -/
def Ata.accept (a : Ata) : Ata := { a with status := clearFlag a.status ataErr, error := 0x00 }

/-- R327: F11 while a command is in progress. -/
def ataCommand (s : State) (f : Ata → Ata) : Result :=
  if s.ata.busy then .error .busy else .ok { s with ata := f s.ata }

/-! ## The sequencing state (30_encoding.md R131, 10_state.md R80) -/

def Pit.seq (c : Pit) : PitSeq := ⟨c.access, c.lowNext, c.slPend, c.clPend⟩

def State.seq (s : State) : SeqState where
  ports := s.ports
  picInit0 := s.pic0.init
  picInit1 := s.pic1.init
  pit0 := s.pit0.seq
  pit1 := s.pit1.seq
  pit2 := s.pit2.seq
  kbcExpect := s.kbc.expect
  kbdExpect := s.kbc.devExpect
  kbcForward := s.params.kbcForward
  ataBusy := s.ata.busy

end Sys2Proof.Machine
end

