-- ==== Sys2Proof/Machine/Agents.lean ====
section
/-! DEFINITION. The steps no transaction starts: the PIC clock (41_pic.md R212), the PIT clock (42_pit.md R262), the IDENTIFY worker
(44_ata.md R335), and the host's HOST_TAKE and HOST_PENDING (41_pic.md R213, R214). -/

namespace Sys2Proof.Machine

/-- R212: the primary unit first, then the secondary, when the host reports interrupts enable-able. -/
def execPicTick (ie : Bool) (s : State) : Host.Outcome State Fault Refusal :=
  .next (if ie then deliverFrom .secondary (deliverFrom .primary s) else s)

/-- R262: a channel counts when its divisor is loaded and its mode is one that counts. -/
def Pit.counting (modes : BitVec 8) (c : Pit) : Bool := !c.nullCount && modes.getLsbD c.mode.toNat

/-- R262 on one channel; true when the count reached 0 and was reloaded. -/
def Pit.tick (modes : BitVec 8) (c : Pit) : Pit × Bool :=
  if c.counting modes then
    (if c.count - 1 = 0 then ({ c with count := c.reload }, true) else ({ c with count := c.count - 1 }, false))
  else (c, false)

/-- R262: the three channels in order; channel 0's terminal count raises IRQ0. -/
def pitTick (s : State) : State :=
  let m := s.params.pitTickModes
  let t := { s with pit0 := (s.pit0.tick m).1, pit1 := (s.pit1.tick m).1, pit2 := (s.pit2.tick m).1 }
  raiseWhen (s.pit0.tick m).2 0 t

/-- R262. -/
def execPitTick (s : State) : Host.Outcome State Fault Refusal := .next (pitTick s)

/-- The image size a unit's identify block is made from (R335). -/
def imageSize (p : Params) : AtaUnit → Nat
  | .atapi => p.cdSize
  | .disk => p.hdSize

/-- R335. While no worker exists there is no step to take and nothing changes (log 2). -/
def execAtaIdentifyDone (s : State) : Host.Outcome State Fault Refusal :=
  match s.ata.tag with
  | .identify u =>
    .next { s with ata := { s.ata with
      dbuf := overwrite s.ata.dbuf 0 (Config.identify u (imageSize s.params u))
      dsize := 512
      dread := 0
      status := clearFlag (setFlag s.ata.status ataDrq) ataBsy
      tag := .none } }
  | _ => .next s

/-- R214. -/
def execHostTake (u : PicUnit) (s : State) : Host.Outcome State Fault Refusal := .next (deliverFrom u s)

/-- R213: the answer goes to the host; the block's own state is unchanged (log 11). -/
def execHostPending (u : PicUnit) (s : State) : Host.Outcome State Fault Refusal :=
  .next { s with hostAnswer := some ((s.pic u).pending != 0) }

end Sys2Proof.Machine
end

