-- ==== Sys2Proof/Machine/Ata.lean ====
section
/-! DEFINITION. The ATA/ATAPI channel's instructions and the CDB commands (44_ata.md R322 to R361). The IDENTIFY worker's step is in
Agents.lean. -/

namespace Sys2Proof.Machine

/-! ## Registers -/

/-- R322 on the channel. -/
def Ata.writeLatch (a : Ata) (b : Byte) : AtaLatch → Ata
  | .features => { a with features := b }
  | .seccount => { a with seccount := b }
  | .lba0 => { a with lba0 := b }
  | .lba1 => { a with lba1 := b }
  | .lba2 => { a with lba2 := b }
  | .drvhead => { a with drvhead := b }

/-- R323 on the channel. -/
def Ata.readLatch (a : Ata) : AtaReadLatch → Byte
  | .seccount => a.seccount
  | .lba0 => a.lba0
  | .lba1 => a.lba1
  | .lba2 => a.lba2
  | .drvhead => a.drvhead

/-- R322: accepted in every state. -/
def execAtaLatchWrite (r : AtaLatch) (b : Byte) (s : State) : Host.Outcome State Fault Refusal :=
  .next { s with ata := s.ata.writeLatch b r }

/-- R323. -/
def execAtaLatchRead (r : AtaReadLatch) (s : State) : Host.Outcome State Fault Refusal :=
  .next (s.reply [s.ata.readLatch r])

/-- R324. -/
def execAtaErrorRead (s : State) : Host.Outcome State Fault Refusal := .next (s.reply [s.ata.error])

/-- R325. -/
def execAtaStatusRead (s : State) : Host.Outcome State Fault Refusal := .next (s.reply [s.ata.status])

/-- R326. -/
def execAtaAltstatusRead (s : State) : Host.Outcome State Fault Refusal := .next (s.reply [s.ata.status])

/-! ## Commands -/

/-- R331: no effect. -/
def execAtaNop (s : State) : Host.Outcome State Fault Refusal := commit s (ataCommand s (fun a => a))

/-- R332, R333: the command is for unit `u` alone; for the other it aborts. -/
def Ata.startIdentify (a : Ata) (u : AtaUnit) : Ata :=
  let t := a.accept
  if t.unit = u then { t with status := clearFlag (setFlag t.status ataBsy) ataDrq, tag := .identify u } else t.abort

/-- R332. -/
def execAtaIdentifyPacket (s : State) : Host.Outcome State Fault Refusal :=
  commit s (ataCommand s (fun a => a.startIdentify .atapi))

/-- R333. -/
def execAtaIdentify (s : State) : Host.Outcome State Fault Refusal :=
  commit s (ataCommand s (fun a => a.startIdentify .disk))

/-- R334 on the channel. -/
def Ata.startPacket (a : Ata) : Ata :=
  let t := a.accept
  if t.unit = .atapi then
    { t with status := clearFlag (setFlag t.status ataDrq) ataBsy, tag := .cdbIncoming, clen := 0 }
  else t.abort

/-- R334. -/
def execAtaPacket (s : State) : Host.Outcome State Fault Refusal := commit s (ataCommand s Ata.startPacket)

/-! ## CDB execution -/

/-- R352: the range check, then the capacity check, then the transfer into the data buffer; exact arithmetic. -/
def cdbRead10 (lba : BitVec 32) (cnt : BitVec 16) (s : State) : Result :=
  let start := lba.toNat * Config.atapiSector
  let n := cnt.toNat * Config.atapiSector
  let a := s.ata
  if ¬ start + n ≤ s.params.cdSize then .ok { s with ata := a.abort }
  else if ¬ n ≤ s.params.ataBufCap then .error .capacityExceeded
  else if cnt = 0 then .ok { s with ata := { a with dsize := 0, dread := 0, status := clearFlag a.status ataBsy } }
  else .ok { s with ata := { a with
      dbuf := overwrite a.dbuf 0 (slice s.params.cdImage start n)
      dsize := n
      dread := 0
      status := clearFlag (setFlag a.status ataDrq) ataBsy } }

/-- R353. -/
def cdbTestUnitReady (s : State) : Result := .ok { s with ata := { s.ata with status := clearFlag s.ata.status ataBsy } }

/-- R352. -/
def execCdbRead10 (lba : BitVec 32) (cnt : BitVec 16) (s : State) : Host.Outcome State Fault Refusal :=
  commit s (cdbRead10 lba cnt s)

/-- R353. -/
def execCdbTestUnitReady (s : State) : Host.Outcome State Fault Refusal := commit s (cdbTestUnitReady s)

/-- R351, before the command: BSY set, DRQ clear, the CDB phase over. -/
def Ata.beginCdb (a : Ata) : Ata :=
  { a with status := clearFlag (setFlag a.status ataBsy) ataDrq, tag := .none, clen := 0 }

/-- R351 `CdbExecute()`: any other opcode is F05 (R354). -/
def cdbExecute (s : State) : Result :=
  let t := { s with ata := s.ata.beginCdb }
  match decodeCdb t.ata.cdb with
  | .ok (.cdbRead10 lba cnt) => cdbRead10 lba cnt t
  | .ok _ => cdbTestUnitReady t
  | .error reason => .error reason

/-! ## The data port -/

/-- The bytes of a data-port request, `d.size * d.count`. -/
def dataBytes (w : DataWidth) (count : BitVec 32) : Nat := w.size.bytes * count.toNat

/-- R340, R341: CDB bytes are accumulated in host-buffer order; the twelfth executes the CDB in the same step. -/
def ataDataWrite (n : Nat) (s : State) : Result :=
  if s.ata.drq = false ∨ s.ata.tag ≠ .cdbIncoming then .error .dataWriteNotRequested
  else if s.ata.clen + n > 12 then .error .capacityExceeded
  else
    let t := { s with ata := { s.ata with
      cdb := overwrite s.ata.cdb s.ata.clen (s.payload n)
      clen := s.ata.clen + n } }
    if t.ata.clen = 12 then cdbExecute t else .ok t

/-- R341. -/
def execAtaDataWrite (w : DataWidth) (count : BitVec 32) (s : State) : Host.Outcome State Fault Refusal :=
  commit s (ataDataWrite (dataBytes w count) s)

/-- R360, the channel after `k` bytes were read: exhausting the buffer clears DRQ and empties it. -/
def Ata.advance (a : Ata) (k : Nat) : Ata :=
  if a.dread + k = a.dsize then { a with status := clearFlag a.status ataDrq, dread := 0, dsize := 0 }
  else { a with dread := a.dread + k }

/-- R360: the request is clamped to the bytes left; host bytes past them are not written. -/
def ataDataRead (n : Nat) (s : State) : Result :=
  if s.ata.drq = false ∨ s.ata.tag ≠ .none ∨ s.ata.dread = s.ata.dsize then .error .readPastData
  else
    let k := min n (s.ata.dsize - s.ata.dread)
    .ok ({ s with ata := s.ata.advance k }.reply (slice s.ata.dbuf s.ata.dread k))

/-- R360. -/
def execAtaDataRead (w : DataWidth) (count : BitVec 32) (s : State) : Host.Outcome State Fault Refusal :=
  commit s (ataDataRead (dataBytes w count) s)

/-! ## Device control -/

/-- R361, the software reset at a falling edge of SRST. -/
def Ata.softReset (a : Ata) : Ata :=
  { a with
    status := 0x40
    lba0 := 0x00
    lba1 := 0x00
    lba2 := 0x00
    dbuf := a.dbuf.map (fun _ => 0x00)
    dsize := 0
    dread := 0
    tag := .none
    clen := 0 }

/-- The IDENTIFY worker is in flight (10_state.md R80). -/
def Ata.identifying (a : Ata) : Bool :=
  match a.tag with
  | .identify _ => true
  | _ => false

/-- R361: a falling edge of SRST resets the channel, and is F11 while an IDENTIFY is in flight. -/
def ataDevctl (b : Byte) (s : State) : Result :=
  if s.ata.devctl.getLsbD 2 = true ∧ b.getLsbD 2 = false then
    if s.ata.identifying then .error .busy else .ok { s with ata := { s.ata.softReset with devctl := b } }
  else .ok { s with ata := { s.ata with devctl := b } }

/-- R361. -/
def execAtaDevctl (b : Byte) (s : State) : Host.Outcome State Fault Refusal := commit s (ataDevctl b s)

end Sys2Proof.Machine
end

