-- ==== Sys2Proof/Machine/Cmos.lean ====
section
/-! DEFINITION. The RTC/CMOS instructions (47_cmos.md R411 to R413). -/

namespace Sys2Proof.Machine

/-- R411. -/
def execCmosIndex (b : Byte) (s : State) : Host.Outcome State Fault Refusal :=
  .next { s with cmos := { s.cmos with idx := b.extractLsb' 0 7, nmiDis := b.getLsbD 7 } }

/-- R412. -/
def execCmosDataRead (s : State) : Host.Outcome State Fault Refusal :=
  .next (s.reply [s.cmos.regs.getD s.cmos.idx.toNat 0])

/-- R413. -/
def execCmosDataWrite (b : Byte) (s : State) : Host.Outcome State Fault Refusal :=
  .next { s with cmos := { s.cmos with regs := s.cmos.regs.set s.cmos.idx.toNat b } }

end Sys2Proof.Machine
end

