-- ==== Sys2Proof/Machine/Dma.lean ====
section
/-! DEFINITION. The DMA controllers' instructions (45_dma.md R381 to R383). No data moves. -/

namespace Sys2Proof.Machine

/-- R381: the mode byte is stored whole. -/
def execDmaMode (k : DmaUnit) (b : Byte) (s : State) : Host.Outcome State Fault Refusal :=
  .next (s.setDma k { s.dma k with mode := b })

/-- `1 << i`. -/
def channelBit (i : BitVec 2) : Byte := 1#8 <<< i.toNat

/-- R382: masking the master's channel 4 masks its channels 5 to 7 too; clearing clears one channel and bits 7:4. -/
def maskAfter (k : DmaUnit) (set : Bool) (i : BitVec 2) (mask : Byte) : Byte :=
  if set then
    (if k = .master ∧ i = 0#2 then (mask ||| channelBit i) ||| 0x0F else mask ||| channelBit i)
  else (mask &&& ~~~ channelBit i) &&& 0x0F

/-- R382. -/
def execDmaSingleMask (k : DmaUnit) (set : Bool) (i : BitVec 2) (s : State) : Host.Outcome State Fault Refusal :=
  .next (s.setDma k { s.dma k with mask := maskAfter k set i (s.dma k).mask })

/-- R383: `mode` is unchanged. -/
def execDmaMasterReset (k : DmaUnit) (s : State) : Host.Outcome State Fault Refusal :=
  .next (s.setDma k { s.dma k with flipflop := false, status := 0x00, mask := 0x0F })

end Sys2Proof.Machine
end

