-- ==== Sys2Proof/Machine/Kbc.lean ====
section
/-! DEFINITION. The keyboard controller's instructions (43_kbc.md R282 to R303). -/

namespace Sys2Proof.Machine

/-! ## Reads -/

/-- R282. -/
def execKbcStatusRead (s : State) : Host.Outcome State Fault Refusal := .next (s.reply [s.kbc.statusByte])

/-- R283: the oldest response, or the sentinel 0xFF when there is none. -/
def execKbcDataRead (s : State) : Host.Outcome State Fault Refusal :=
  match s.kbc.fifo with
  | [] => .next (s.reply [0xFF])
  | b :: rest => .next ({ s with kbc := { s.kbc with fifo := rest } }.reply [b])

/-! ## Controller commands -/

/-- A change of the controller's own registers. -/
def setKbc (f : Kbc → Kbc) (s : State) : Result := .ok { s with kbc := f s.kbc }

/-- R284. -/
def execKbcReadConfig (s : State) : Host.Outcome State Fault Refusal :=
  commit s (kbcCommand s (enqueue s.kbc.config s))

/-- R285. -/
def execKbcWriteConfig (s : State) : Host.Outcome State Fault Refusal :=
  commit s (kbcCommand s (setKbc (fun k => { k with expect := .config }) s))

/-- R286. -/
def execKbcDisablePort2 (s : State) : Host.Outcome State Fault Refusal :=
  commit s (kbcCommand s (setKbc (fun k => { k with config := k.config ||| 0x20 }) s))

/-- R287. -/
def execKbcEnablePort2 (s : State) : Host.Outcome State Fault Refusal :=
  commit s (kbcCommand s (setKbc (fun k => { k with config := k.config &&& 0xDF }) s))

/-- R288: the response first, then the system flag is cleared. -/
def execKbcSelfTest (s : State) : Host.Outcome State Fault Refusal :=
  commit s (kbcCommand s (do
    let t ← enqueue 0x55 s
    setKbc (fun k => { k with status := k.status &&& 0xFB }) t))

/-- R289. -/
def execKbcTestPort1 (s : State) : Host.Outcome State Fault Refusal :=
  commit s (kbcCommand s (enqueue 0x00 s))

/-- R290. -/
def execKbcDisablePort1 (s : State) : Host.Outcome State Fault Refusal :=
  commit s (kbcCommand s (setKbc (fun k => { k with config := k.config ||| 0x10 }) s))

/-- R291. -/
def execKbcEnablePort1 (s : State) : Host.Outcome State Fault Refusal :=
  commit s (kbcCommand s (setKbc (fun k => { k with config := k.config &&& 0xEF }) s))

/-- R292. -/
def execKbcReadOutport (s : State) : Host.Outcome State Fault Refusal :=
  commit s (kbcCommand s (enqueue s.kbc.outport s))

/-- R293. -/
def execKbcWriteOutport (s : State) : Host.Outcome State Fault Refusal :=
  commit s (kbcCommand s (setKbc (fun k => { k with expect := .outport }) s))

/-! ## Data-port writes -/

/-- R297. -/
def execKbcConfigPayload (b : Byte) (s : State) : Host.Outcome State Fault Refusal :=
  commit s (setKbc (fun k => { k with config := b, expect := .none }) s)

/-- R298. -/
def execKbcOutportPayload (b : Byte) (s : State) : Host.Outcome State Fault Refusal :=
  commit s (setKbc (fun k => { k with outport := b, expect := .none }) s)

/-- R299: any byte is taken as the argument, acknowledged and discarded. -/
def execKbdScansetArg (_ : Byte) (s : State) : Host.Outcome State Fault Refusal :=
  commit s (do
    let t ← enqueue 0xFA s
    setKbc (fun k => { k with devExpect := .none }) t)

/-- R300. -/
def execKbdSetScanset (s : State) : Host.Outcome State Fault Refusal :=
  commit s (do
    let t ← enqueue 0xFA s
    setKbc (fun k => { k with devExpect := .scansetArg }) t)

/-- R301. -/
def execKbdEnableScan (s : State) : Host.Outcome State Fault Refusal := commit s (enqueue 0xFA s)

/-- R302. -/
def execKbdDisableScan (s : State) : Host.Outcome State Fault Refusal := commit s (enqueue 0xFA s)

/-- R303: the acknowledgement, the status, then the completion byte. -/
def execKbdReset (s : State) : Host.Outcome State Fault Refusal :=
  commit s (do
    let t ← enqueue 0xFA s
    let t ← setKbc (fun k => { k with status := s.params.kbcStatusInit }) t
    enqueue 0xAA t)

end Sys2Proof.Machine
end

