-- ==== Sys2Proof/Machine/Pci.lean ====
section
/-! DEFINITION. The PCI configuration mechanism's instructions (46_pci.md R397 to R402). -/

namespace Sys2Proof.Machine

/-- R397: the address is kept whole, the cursor decoded from it; bits 31:24 and 1:0 choose nothing. -/
def execPciAddrWrite (v : Word) (s : State) : Host.Outcome State Fault Refusal :=
  .next { s with pci := { s.pci with addr := v, curIndex := pciIndexOf v, curReg := pciRegOf v } }

/-- R398. -/
def execPciAddrRead (s : State) : Host.Outcome State Fault Refusal := .next (s.reply (leBytes s.pci.addr 4))

/-- R402: F10 past the blocks or past the block's 256 bytes, before anything is read or written. -/
def pciAccess (size : Size) (lane : BitVec 2) (r : State) (s : State) : Result :=
  if s.pci.curIndex ≥ s.params.pciNumBlocks ∨ pciOffset s.pci lane + size.bytes > 256 then .error .outOfRange
  else .ok r

/-- The block under the cursor. -/
def Pci.block (p : Pci) : List Byte := p.blocks.getD p.curIndex []

/-- R400: the bytes go out in increasing offset order. -/
def execPciDataRead (size : Size) (lane : BitVec 2) (s : State) : Host.Outcome State Fault Refusal :=
  commit s (pciAccess size lane
    (s.reply ((List.range size.bytes).map (fun i => s.pci.block.getD (pciOffset s.pci lane + i) 0))) s)

/-- R401: every byte is writable, with no side effect. -/
def execPciDataWrite (size : Size) (lane : BitVec 2) (v : Word) (s : State) : Host.Outcome State Fault Refusal :=
  commit s (pciAccess size lane
    { s with pci := { s.pci with
        blocks := s.pci.blocks.set s.pci.curIndex
          (overwrite s.pci.block (pciOffset s.pci lane) (leBytes v size.bytes)) } } s)

end Sys2Proof.Machine
end

