-- ==== Sys2Proof/Machine/Pic.lean ====
section
/-! DEFINITION. The interrupt controller's instructions (41_pic.md R181 to R197). -/

namespace Sys2Proof.Machine

/-! ## Initialization words -/

/-- R182. -/
def execPicIcw1 (u : PicUnit) (b : Byte) (s : State) : Host.Outcome State Fault Refusal :=
  commit s (picCommand u (fun p => { p with icw1 := b, icw4 := 0x00, rsel := .imr, init := .icw2 }) s)

/-- The word after ICW2 (R183): ICW3 unless SNGL, then ICW4 if IC4, else operational. -/
def initAfterIcw2 (icw1 : Byte) : PicInit :=
  if icw1.getLsbD 1 = false then .icw3 else if icw1.getLsbD 0 then .icw4 else .icw1

/-- The word after ICW3 (R184). -/
def initAfterIcw3 (icw1 : Byte) : PicInit := if icw1.getLsbD 0 then .icw4 else .icw1

/-- R183. -/
def execPicIcw2 (u : PicUnit) (b : Byte) (s : State) : Host.Outcome State Fault Refusal :=
  .next (s.setPic u { s.pic u with icw2 := b, init := initAfterIcw2 (s.pic u).icw1 })

/-- R184. -/
def execPicIcw3 (u : PicUnit) (b : Byte) (s : State) : Host.Outcome State Fault Refusal :=
  .next (s.setPic u { s.pic u with icw3 := b, init := initAfterIcw3 (s.pic u).icw1 })

/-- R185. -/
def execPicIcw4 (u : PicUnit) (b : Byte) (s : State) : Host.Outcome State Fault Refusal :=
  .next (s.setPic u { s.pic u with icw4 := b, init := .icw1 })

/-- R187. -/
def execPicOcw1 (u : PicUnit) (b : Byte) (s : State) : Host.Outcome State Fault Refusal :=
  .next (s.setPic u { s.pic u with imr := b })

/-! ## OCW2: end of interrupt and rotation -/

/-- R188 on one unit. -/
def Pic.nonSpecificEoi (p : Pic) : Pic :=
  match firstIn p.prio p.isr with
  | none => p
  | some l => { p with isr := clearLevel p.isr l }

/-- R190 on one unit. -/
def Pic.rotateNonSpecificEoi (p : Pic) : Pic :=
  match firstIn p.prio p.isr with
  | none => p
  | some l => { p with isr := clearLevel p.isr l, prio := l }

/-- R188. -/
def execPicNseoi (u : PicUnit) (s : State) : Host.Outcome State Fault Refusal :=
  commit s (picCommand u Pic.nonSpecificEoi s)

/-- R189. -/
def execPicSeoi (u : PicUnit) (l : BitVec 3) (s : State) : Host.Outcome State Fault Refusal :=
  commit s (picCommand u (fun p => { p with isr := clearLevel p.isr l }) s)

/-- R190. -/
def execPicRotNseoi (u : PicUnit) (s : State) : Host.Outcome State Fault Refusal :=
  commit s (picCommand u Pic.rotateNonSpecificEoi s)

/-- R191. -/
def execPicRotSeoi (u : PicUnit) (l : BitVec 3) (s : State) : Host.Outcome State Fault Refusal :=
  commit s (picCommand u (fun p => { p with isr := clearLevel p.isr l, prio := l }) s)

/-- R192. -/
def execPicSetpri (u : PicUnit) (l : BitVec 3) (s : State) : Host.Outcome State Fault Refusal :=
  commit s (picCommand u (fun p => { p with prio := l }) s)

/-- R193. -/
def execPicRotAeoiSet (u : PicUnit) (s : State) : Host.Outcome State Fault Refusal :=
  commit s (picCommand u (fun p => { p with rotAeoi := true }) s)

/-- R194. -/
def execPicRotAeoiClr (u : PicUnit) (s : State) : Host.Outcome State Fault Refusal :=
  commit s (picCommand u (fun p => { p with rotAeoi := false }) s)

/-- R195: no state change. -/
def execPicOcw2Nop (u : PicUnit) (s : State) : Host.Outcome State Fault Refusal :=
  commit s (picCommand u (fun p => p) s)

/-! ## OCW3 and the data-port read -/

/-- R196: the read target of an OCW3 byte (R137: RIS is bit 0, RR bit 1). -/
def ocw3Target (b : Byte) : PicReg :=
  if b.getLsbD 1 then (if b.getLsbD 0 then .isr else .irr) else .imr

/-- R196. -/
def execPicOcw3 (u : PicUnit) (b : Byte) (s : State) : Host.Outcome State Fault Refusal :=
  commit s (picCommand u (fun p =>
    { p with
      rsel := ocw3Target b
      poll := b.getLsbD 2
      smm := if b.getLsbD 6 then b.getLsbD 5 else p.smm }) s)

/-- R197: the selected register. -/
def Pic.selected (p : Pic) : Byte :=
  match p.rsel with
  | .imr => p.imr
  | .irr => p.irr
  | .isr => p.isr

/-- R197; allowed in every `init` state. -/
def execPicDataRead (u : PicUnit) (s : State) : Host.Outcome State Fault Refusal :=
  .next (s.reply [(s.pic u).selected])

end Sys2Proof.Machine
end

