-- ==== Sys2Proof/Machine/Pit.lean ====
section
/-! DEFINITION. The interval timer's instructions (42_pit.md R241 to R255). The clock's own step is in Agents.lean. -/

namespace Sys2Proof.Machine

/-! ## Command-port writes -/

/-- R242. -/
def execPitCw (c : PitChan) (rw : BitVec 2) (m : BitVec 3) (bcd : Bool) (s : State) : Host.Outcome State Fault Refusal :=
  .next (s.setPit c { s.pit c with access := rw, mode := m, bcd := bcd, lowNext := true })

/-- R243: a latch command while one is pending is ignored. -/
def Pit.latchCount (c : Pit) : Pit := if c.clPend then c else { c with clVal := c.count, clPend := true }

/-- R243. -/
def execPitLatch (c : PitChan) (s : State) : Host.Outcome State Fault Refusal :=
  .next (s.setPit c (s.pit c).latchCount)

/-- R244, R255, the status half: OUT is drawn at each status latch that is taken (log 9). -/
def latchStatus (c : PitChan) (s : State) : State :=
  if (s.pit c).slPend then s
  else
    let t := s.setPit c { s.pit c with slVal := (s.pit c).statusByte (Config.pitOut s.draws), slPend := true }
    { t with draws := s.draws + 1 }

/-- R244 for one channel; the two flags are active low (R139). -/
def readbackChan (countN statusN : Bool) (c : PitChan) (s : State) : State :=
  let t := if countN then s else s.setPit c (s.pit c).latchCount
  if statusN then t else latchStatus c t

/-- R244: channels 0, 1, 2 in order, each when its select bit is set. -/
def readbackAll (countN statusN : Bool) (sel : BitVec 3) (s : State) : State :=
  let s0 := if sel.getLsbD 0 then readbackChan countN statusN .c0 s else s
  let s1 := if sel.getLsbD 1 then readbackChan countN statusN .c1 s0 else s0
  if sel.getLsbD 2 then readbackChan countN statusN .c2 s1 else s1

/-- R244. -/
def execPitReadback (countN statusN : Bool) (sel : BitVec 3) (s : State) : Host.Outcome State Fault Refusal :=
  .next (readbackAll countN statusN sel s)

/-! ## Data-port writes -/

/-- R245: a data write to a channel that was never programmed is F04. -/
def pitWrite (c : PitChan) (f : Pit → Pit) (s : State) : Result :=
  if (s.pit c).access = 0b00#2 then .error .unmappedAccess else .ok (s.setPit c (f (s.pit c)))

/-- `{b, 0x00}`, `{b, low}` (R247, R249). -/
def highLow (high low : Byte) : Half := (high ++ low : BitVec 16)

/-- Loading a whole divisor starts the count (R246, R247, R249). -/
def Pit.load (c : Pit) (v : Half) : Pit := { c with reload := v, count := v, nullCount := false }

/-- R246. -/
def execPitWLsb (c : PitChan) (b : Byte) (s : State) : Host.Outcome State Fault Refusal :=
  commit s (pitWrite c (fun t => t.load (highLow 0x00 b)) s)

/-- R247. -/
def execPitWMsb (c : PitChan) (b : Byte) (s : State) : Host.Outcome State Fault Refusal :=
  commit s (pitWrite c (fun t => t.load (highLow b 0x00)) s)

/-- R248. -/
def execPitWLow (c : PitChan) (b : Byte) (s : State) : Host.Outcome State Fault Refusal :=
  commit s (pitWrite c (fun t =>
    { t with reload := highLow (t.reload.extractLsb' 8 8) b, nullCount := true, lowNext := false }) s)

/-- R249. -/
def execPitWHigh (c : PitChan) (b : Byte) (s : State) : Host.Outcome State Fault Refusal :=
  commit s (pitWrite c (fun t => { t.load (highLow b (t.reload.extractLsb' 0 8)) with lowNext := true }) s)

/-! ## Data-port reads -/

/-- R254 `SelByte`: the byte, whether the access is complete, and the cursor afterwards. Access 0b00 is never asked (R251). -/
def Pit.selByte (c : Pit) (v : Half) : Byte × Bool × Bool :=
  if c.access = 0b10#2 then (v.extractLsb' 8 8, true, c.lowNext)
  else if c.access = 0b11#2 then
    (if c.lowNext then (v.extractLsb' 0 8, false, false) else (v.extractLsb' 8 8, true, true))
  else (v.extractLsb' 0 8, true, c.lowNext)

/-- R253: the reload value until counting has started. -/
def Pit.live (c : Pit) : Half := if c.nullCount then c.reload else c.count

/-- R251: a read of a channel that was never programmed is F04, unless a status latch is pending. -/
def pitRead (c : PitChan) (f : State → State) (s : State) : Result :=
  if (s.pit c).access = 0b00#2 then .error .unmappedAccess else .ok (f s)

/-- R250, the status latch: returned even while `access = 0b00`, and `low_next` does not move. -/
def execPitDataRead (c : PitChan) (s : State) : Host.Outcome State Fault Refusal :=
  .next ((s.setPit c { s.pit c with slPend := false }).reply [(s.pit c).slVal])

/-- R252. -/
def execPitRLatched (c : PitChan) (s : State) : Host.Outcome State Fault Refusal :=
  commit s (pitRead c (fun t =>
    let r := (t.pit c).selByte (t.pit c).clVal
    (t.setPit c { t.pit c with
      lowNext := r.2.2
      clPend := if r.2.1 then false else (t.pit c).clPend }).reply [r.1]) s)

/-- R253. -/
def execPitRLive (c : PitChan) (s : State) : Host.Outcome State Fault Refusal :=
  commit s (pitRead c (fun t =>
    let r := (t.pit c).selByte (t.pit c).live
    (t.setPit c { t.pit c with lowNext := r.2.2 }).reply [r.1]) s)

end Sys2Proof.Machine
end

