-- ==== Sys2Proof/Machine/Dispatch.lean ====
section
/-! DEFINITION. The meaning of every instruction, one arm a constructor. -/

namespace Sys2Proof.Machine

def exec (i : Instr) (s : State) : Host.Outcome State Fault Refusal :=
  match i with
  | .picIcw1 u b => Sys2Proof.Machine.execPicIcw1 u b s
  | .picIcw2 u b => Sys2Proof.Machine.execPicIcw2 u b s
  | .picIcw3 u b => Sys2Proof.Machine.execPicIcw3 u b s
  | .picIcw4 u b => Sys2Proof.Machine.execPicIcw4 u b s
  | .picOcw1 u b => Sys2Proof.Machine.execPicOcw1 u b s
  | .picNseoi u => Sys2Proof.Machine.execPicNseoi u s
  | .picSeoi u l => Sys2Proof.Machine.execPicSeoi u l s
  | .picRotNseoi u => Sys2Proof.Machine.execPicRotNseoi u s
  | .picRotSeoi u l => Sys2Proof.Machine.execPicRotSeoi u l s
  | .picSetpri u l => Sys2Proof.Machine.execPicSetpri u l s
  | .picRotAeoiSet u => Sys2Proof.Machine.execPicRotAeoiSet u s
  | .picRotAeoiClr u => Sys2Proof.Machine.execPicRotAeoiClr u s
  | .picOcw2Nop u => Sys2Proof.Machine.execPicOcw2Nop u s
  | .picOcw3 u b => Sys2Proof.Machine.execPicOcw3 u b s
  | .picDataRead u => Sys2Proof.Machine.execPicDataRead u s
  | .pitCw c rw m bcd => Sys2Proof.Machine.execPitCw c rw m bcd s
  | .pitLatch c => Sys2Proof.Machine.execPitLatch c s
  | .pitReadback countN statusN sel => Sys2Proof.Machine.execPitReadback countN statusN sel s
  | .pitWLsb c b => Sys2Proof.Machine.execPitWLsb c b s
  | .pitWMsb c b => Sys2Proof.Machine.execPitWMsb c b s
  | .pitWLow c b => Sys2Proof.Machine.execPitWLow c b s
  | .pitWHigh c b => Sys2Proof.Machine.execPitWHigh c b s
  | .pitDataRead c => Sys2Proof.Machine.execPitDataRead c s
  | .pitRLatched c => Sys2Proof.Machine.execPitRLatched c s
  | .pitRLive c => Sys2Proof.Machine.execPitRLive c s
  | .kbcStatusRead => Sys2Proof.Machine.execKbcStatusRead s
  | .kbcDataRead => Sys2Proof.Machine.execKbcDataRead s
  | .kbcReadConfig => Sys2Proof.Machine.execKbcReadConfig s
  | .kbcWriteConfig => Sys2Proof.Machine.execKbcWriteConfig s
  | .kbcDisablePort2 => Sys2Proof.Machine.execKbcDisablePort2 s
  | .kbcEnablePort2 => Sys2Proof.Machine.execKbcEnablePort2 s
  | .kbcSelfTest => Sys2Proof.Machine.execKbcSelfTest s
  | .kbcTestPort1 => Sys2Proof.Machine.execKbcTestPort1 s
  | .kbcDisablePort1 => Sys2Proof.Machine.execKbcDisablePort1 s
  | .kbcEnablePort1 => Sys2Proof.Machine.execKbcEnablePort1 s
  | .kbcReadOutport => Sys2Proof.Machine.execKbcReadOutport s
  | .kbcWriteOutport => Sys2Proof.Machine.execKbcWriteOutport s
  | .kbcConfigPayload b => Sys2Proof.Machine.execKbcConfigPayload b s
  | .kbcOutportPayload b => Sys2Proof.Machine.execKbcOutportPayload b s
  | .kbdScansetArg b => Sys2Proof.Machine.execKbdScansetArg b s
  | .kbdSetScanset => Sys2Proof.Machine.execKbdSetScanset s
  | .kbdEnableScan => Sys2Proof.Machine.execKbdEnableScan s
  | .kbdDisableScan => Sys2Proof.Machine.execKbdDisableScan s
  | .kbdReset => Sys2Proof.Machine.execKbdReset s
  | .ataLatchWrite r b => Sys2Proof.Machine.execAtaLatchWrite r b s
  | .ataLatchRead r => Sys2Proof.Machine.execAtaLatchRead r s
  | .ataErrorRead => Sys2Proof.Machine.execAtaErrorRead s
  | .ataStatusRead => Sys2Proof.Machine.execAtaStatusRead s
  | .ataAltstatusRead => Sys2Proof.Machine.execAtaAltstatusRead s
  | .ataNop => Sys2Proof.Machine.execAtaNop s
  | .ataIdentifyPacket => Sys2Proof.Machine.execAtaIdentifyPacket s
  | .ataIdentify => Sys2Proof.Machine.execAtaIdentify s
  | .ataPacket => Sys2Proof.Machine.execAtaPacket s
  | .ataDataWrite w count => Sys2Proof.Machine.execAtaDataWrite w count s
  | .ataDataRead w count => Sys2Proof.Machine.execAtaDataRead w count s
  | .ataDevctl b => Sys2Proof.Machine.execAtaDevctl b s
  | .cdbRead10 lba cnt => Sys2Proof.Machine.execCdbRead10 lba cnt s
  | .cdbTestUnitReady => Sys2Proof.Machine.execCdbTestUnitReady s
  | .dmaMode k b => Sys2Proof.Machine.execDmaMode k b s
  | .dmaSingleMask k set ch => Sys2Proof.Machine.execDmaSingleMask k set ch s
  | .dmaMasterReset k => Sys2Proof.Machine.execDmaMasterReset k s
  | .pciAddrWrite v => Sys2Proof.Machine.execPciAddrWrite v s
  | .pciAddrRead => Sys2Proof.Machine.execPciAddrRead s
  | .pciDataRead size lane => Sys2Proof.Machine.execPciDataRead size lane s
  | .pciDataWrite size lane v => Sys2Proof.Machine.execPciDataWrite size lane v s
  | .cmosIndex b => Sys2Proof.Machine.execCmosIndex b s
  | .cmosDataRead => Sys2Proof.Machine.execCmosDataRead s
  | .cmosDataWrite b => Sys2Proof.Machine.execCmosDataWrite b s
  | .picTick ie => Sys2Proof.Machine.execPicTick ie s
  | .pitTick => Sys2Proof.Machine.execPitTick s
  | .ataIdentifyDone => Sys2Proof.Machine.execAtaIdentifyDone s
  | .hostTake u => Sys2Proof.Machine.execHostTake u s
  | .hostPending u => Sys2Proof.Machine.execHostPending u s

end Sys2Proof.Machine
end

