-- ==== Sys2Proof/Machine/Fetch.lean ====
section
/-! DEFINITION. How the next input becomes an instruction (20_memory.md R112, 40_dispatch.md R160, R164), and how a word of the opcode
table is put where the next step finds it. -/

namespace Sys2Proof.Machine

/-- R160: the host hands over a descriptor and its buffer, whose bytes at `buffer_offset` are `host`; an agent's turn hands over
nothing. The input is gone from the list. -/
def deliver (s : State) (i : Input) (rest : List Input) : State :=
  match i with
  | .trap d host => { s with inputs := rest, cur := d, mem := s.mem.writeBytes d.offset.toNat host }
  | .agent _ => { s with inputs := rest }

/-- The code of an input, as the decoder reads it after delivery. -/
def inputCode (s : State) : Input → Code
  | .trap d _ => .port ⟨d.dir, d.size, d.port, d.count, s.payloadWord⟩
  | .agent a => .agent a

/-- R131, R164: the instruction of a delivered input, or the fatal reason of a transaction that has none. -/
def fetchInstr (s : State) (i : Input) : Except FatalReason Instr := decode s.seq (inputCode s i)

/-! ## A table word as the next input (log 13) -/

/-- The trap that a count-1 wire stands for, at buffer offset 0. -/
def wireInput (w : Wire) : Input :=
  .trap ⟨w.dir, w.size, w.port, w.count, 0⟩ (leBytes w.imm 4)

/-- The sequencing cursors of `s` set to those of `c`. -/
def State.withSeq (s : State) (c : SeqState) : State :=
  { s with
    pic0 := { s.pic0 with init := c.picInit0 }
    pic1 := { s.pic1 with init := c.picInit1 }
    pit0 := { s.pit0 with access := c.pit0.access, lowNext := c.pit0.lowNext, slPend := c.pit0.slPend, clPend := c.pit0.clPend }
    pit1 := { s.pit1 with access := c.pit1.access, lowNext := c.pit1.lowNext, slPend := c.pit1.slPend, clPend := c.pit1.clPend }
    pit2 := { s.pit2 with access := c.pit2.access, lowNext := c.pit2.lowNext, slPend := c.pit2.slPend, clPend := c.pit2.clPend }
    kbc := { s.kbc with expect := c.kbcExpect, devExpect := c.kbdExpect }
    params := { s.params with kbcForward := c.kbcForward } }

/-- The next step runs a port word: the cursors move only where `s` would read another instruction from it. -/
def withWire (s : State) (w : Wire) : State :=
  let t := { s with ports := portMap, fatal := none }
  let r := if decodePort t.seq w = decodePort (tableSeq w) w then t else t.withSeq (tableSeq w)
  { r with inputs := wireInput w :: r.inputs }

/-- The next step runs a CDB whose first byte is `b` and whose others are 0: the channel waits for a CDB, and one `OUTS2 0x1F0, ×6`
brings it whole (44_ata.md R341, R351). -/
def withCdb (s : State) (b : Byte) : State :=
  { s with
    ports := portMap
    fatal := none
    ata := { s.ata with status := clearFlag (setFlag s.ata.status ataDrq) ataBsy, tag := .cdbIncoming, clen := 0 }
    inputs := .trap ⟨.out, .b2, 0x1F0, 6, 0⟩ (b :: List.replicate 11 0) :: s.inputs }

end Sys2Proof.Machine
end

