-- ==== Sys2Proof/Machine/Step.lean ====
section
/-! DEFINITION. One step of the block: the next input, delivered, decoded and run (20_memory.md R112, 40_dispatch.md R164, R167). -/

namespace Sys2Proof.Machine

/-- R167: nothing is enabled once a fatal is recorded. With no input left no agent moves (log 2). Otherwise the next input is
delivered and its instruction runs, or the transaction is fatal. -/
def step (s : State) : Host.Outcome State Fault Refusal :=
  match s.fatal with
  | some r => .fault (.terminated r.reason)
  | none =>
    match s.inputs with
    | [] => .next s
    | i :: rest =>
      match fetchInstr (deliver s i rest) i with
      | .ok instr => exec instr (deliver s i rest)
      | .error reason => .next (raiseFatal reason (deliver s i rest))

/-- A word of the opcode table placed where `step` finds its next instruction: a 32-bit selector word as the next transaction, or an
8-bit CDB opcode as the next CDB (log 13). -/
def State.withFetchWord (s : State) (nbits w : Nat) : State :=
  if nbits = 8 then withCdb s (BitVec.ofNat 8 w)
  else match Wire.ofSel (BitVec.ofNat 32 w) with
    | none => s
    | some t => withWire s t

end Sys2Proof.Machine
end

