-- ==== Sys2Proof/Machine/Startup.lean ====
section
/-! DEFINITION. Start-up: registration and the fixed registration set (40_dispatch.md R161 to R163, 70_reset_and_hazards.md R461). It
runs before any agent step, so it is no instruction; `State.reset` is its result. -/

namespace Sys2Proof.Machine

/-- One of R162's registrations: the range, and the device whose initializer runs with it, if any. -/
structure Registration where
  range : PortRange
  init : Option Handler
  deriving DecidableEq, Repr

/-- The ports `lo..hi`, in order. -/
def portsOf (r : PortRange) : List (BitVec 16) :=
  (List.range (r.hi.toNat + 1 - r.lo.toNat)).map (fun i => r.lo + BitVec.ofNat 16 i)

/-- R161: the lowest port of the range that is already claimed. -/
def claimedPort (ports : List PortRange) (r : PortRange) : Option (BitVec 16) :=
  (portsOf r).find? (fun p => (handlerAt ports p).isSome)

/-- R422: an F01 record holds the port alone, an F02 record nothing but its reason. -/
def startupRecord (reason : FatalReason) (port : Option (BitVec 16)) : FatalRecord where
  reason := reason
  cls := fatalClass reason
  port := port
  dir := none
  size := none
  count := none
  byte := none

/-- R161: the initializer sets its device's state to the reset values of 10_state.md. -/
def initDevice (h : Handler) (s : State) : State :=
  match h with
  | .pic0 => { s with pic0 := Pic.reset s.params.picResetBase0 }
  | .pic1 => { s with pic1 := Pic.reset s.params.picResetBase1 }
  | .pit => { s with pit0 := Pit.reset, pit1 := Pit.reset, pit2 := Pit.reset }
  | .kbc => { s with kbc := Kbc.reset s.params }
  | .ata => { s with ata := Ata.reset s.params }
  | .ata2 => s
  | .dma0 => { s with dma0 := Dma.reset }
  | .dma1 => { s with dma1 := Dma.reset }
  | .pci => { s with pci := Pci.reset s.params }
  | .cmos => { s with cmos := Cmos.reset s.params }

/-- R161, R162, R421: F02 when the ATA initializer cannot open an image, F01 when a port is already claimed; either abandons the
registration. Nothing more happens once a fatal is recorded. -/
def register (imagesOpen : Bool) (g : Registration) (s : State) : State :=
  if s.fatal.isSome then s
  else if g.init = some .ata ∧ imagesOpen = false then recordFatal (startupRecord .backingFileUnopenable none) s
  else
    let t := match g.init with
      | none => s
      | some h => initDevice h s
    match claimedPort s.ports g.range with
    | some p => recordFatal (startupRecord .duplicatePortRegistration (some p)) s
    | none => { t with ports := s.ports ++ [g.range] }

/-- R162, in the order of R106's table; each device's initializer stands with one of its ranges. -/
def registrations : List Registration :=
  [ ⟨⟨0x0000, 0x000F, .dma0⟩, some .dma0⟩, ⟨⟨0x0020, 0x0021, .pic0⟩, some .pic0⟩, ⟨⟨0x0040, 0x0043, .pit⟩, some .pit⟩,
    ⟨⟨0x0060, 0x0060, .kbc⟩, some .kbc⟩, ⟨⟨0x0064, 0x0064, .kbc⟩, none⟩, ⟨⟨0x0070, 0x0071, .cmos⟩, some .cmos⟩,
    ⟨⟨0x00A0, 0x00A1, .pic1⟩, some .pic1⟩, ⟨⟨0x00C0, 0x00DE, .dma1⟩, some .dma1⟩, ⟨⟨0x0170, 0x0177, .ata2⟩, some .ata2⟩,
    ⟨⟨0x01F0, 0x01F7, .ata⟩, some .ata⟩, ⟨⟨0x0376, 0x0377, .ata2⟩, none⟩, ⟨⟨0x03F6, 0x03F7, .ata⟩, none⟩,
    ⟨⟨0x0CF8, 0x0CFF, .pci⟩, some .pci⟩ ]

/-- Start-up from a process whose devices hold anything: no port claimed, no event, then the registrations in the given order. -/
def startUp (imagesOpen : Bool) (order : List Registration) (s : State) : State :=
  order.foldl (fun t g => register imagesOpen g t) { s with ports := [], fatal := none, events := [] }

end Sys2Proof.Machine
end

