-- ==== Sys2Proof/Safety.lean ====
section
/-! DEFINITION. What holds of every state a run can reach: the invariants the spec's rules preserve, and reachability. -/

namespace Sys2Proof.Machine

/-- 44_ata.md R365 (i) to (vi), the buffer lengths of 10_state.md R50, and R51's bits that no rule sets. -/
structure Ata.Inv (cap : Nat) (a : Ata) : Prop where
  dbuf_length : a.dbuf.length = cap
  cdb_length : a.cdb.length = 12
  dread_le : a.dread ≤ a.dsize
  dsize_le : a.dsize ≤ cap
  not_bsy_drq : ¬ (a.bsy = true ∧ a.drq = true)
  cdb_phase : a.tag = .cdbIncoming → a.drq = true ∧ a.bsy = false ∧ a.clen < 12
  identify_phase : ∀ u, a.tag = .identify u → a.bsy = true ∧ a.drq = false
  data_phase : a.drq = true → a.tag = .none → a.dread < a.dsize
  err_abrt : a.err = true → a.error = ataAbrt
  stuck_bits : a.status &&& 0x36 = 0

/-- A pending level is not in service: R38 and 41_pic.md R210, R211. -/
def Pic.Inv (p : Pic) : Prop := p.irr &&& p.isr = 0

/-- 10_state.md R60, 90_conflicts.md C22: mask bits 7:4 are 0. -/
def Dma.Inv (d : Dma) : Prop := d.mask &&& 0xF0 = 0

/-- What the rules keep of a whole state. -/
structure State.Inv (s : State) : Prop where
  params_wf : s.params.wf
  ports_fixed : s.ports = portMap
  mem_wf : s.mem.wf = true
  pic0_inv : s.pic0.Inv
  pic1_inv : s.pic1.Inv
  fifo_le : s.kbc.fifo.length ≤ s.params.kbcFifoCap
  ata_inv : s.ata.Inv s.params.ataBufCap
  dma0_inv : s.dma0.Inv
  dma1_inv : s.dma1.Inv
  blocks_length : s.pci.blocks.length = s.params.pciNumBlocks
  block_length : ∀ b ∈ s.pci.blocks, b.length = 256
  regs_length : s.cmos.regs.length = 128

/-- A state with the same block parameters and a chosen list of inputs (log 1). -/
def State.withInputs (s : State) (is : List Input) : State := { s with inputs := is }

/-- The states the block can be in after some steps from reset, for some list of inputs. -/
inductive Reachable : State → Prop where
  | reset (p : Params) (h : p.wf) (is : List Input) : Reachable ((State.resetWith p).withInputs is)
  | step (s t : State) (h : Reachable s) (hs : step s = .next t) : Reachable t

/-! ## The words the statements use -/

/-- An `OUT1` of the byte `b` at host-buffer offset `off` (30_encoding.md R152). -/
def outByte (port : BitVec 16) (off : BitVec 64) (b : Byte) : Input := .trap ⟨.out, .b1, port, 1, off⟩ [b]

/-- An `IN1` at host-buffer offset `off`, whose buffer holds `host` (R152). -/
def inByte (port : BitVec 16) (off : BitVec 64) (host : List Byte) : Input := .trap ⟨.inp, .b1, port, 1, off⟩ host

/-- The block has started, has not terminated, and `i` is what the environment hands it next. -/
structure Awaits (s : State) (i : Input) (rest : List Input) : Prop where
  alive : s.fatal = none
  ports_fixed : s.ports = portMap
  mem_wf : s.mem.wf = true
  next_input : s.inputs = i :: rest

/-- `t` is `s` with the bytes `bs` written at the descriptor's buffer offset, and every other byte of the buffer as before. -/
def Answers (s : State) (bs : List Byte) (t : State) : Prop :=
  { t with mem := s.mem } = s ∧
  (∀ i, i < bs.length → t.mem.read (s.cur.offset.toNat + i) = bs.getD i 0) ∧
  (∀ a, a < s.cur.offset.toNat ∨ s.cur.offset.toNat + bs.length ≤ a → t.mem.read a = s.mem.read a)

/-- The step ends in a next state that answers `bs` from `s`. -/
def Completes (o : Host.Outcome State Fault Refusal) (s : State) (bs : List Byte) : Prop :=
  ∃ t, o = .next t ∧ Answers s bs t

/-- 43_kbc.md R281 written out: the byte is queued, and level 1 of the primary unit becomes requested when configuration bit 0 is set
and the level is neither requested nor in service nor masked (41_pic.md R210). -/
def afterEnqueue (b : Byte) (s : State) : State :=
  { s with
    kbc := { s.kbc with fifo := s.kbc.fifo ++ [b] }
    pic0 := { s.pic0 with
      irr :=
        if s.kbc.config &&& 0x01 = 0x01 ∧ s.pic0.irr &&& 0x02 = 0 ∧ s.pic0.isr &&& 0x02 = 0 ∧ s.pic0.imr &&& 0x02 = 0 then
          s.pic0.irr ||| 0x02
        else s.pic0.irr } }

/-- How far a level lies from the highest priority when the cursor stands at `prio`, the lowest (41_pic.md R186). -/
def rank (prio level : BitVec 3) : Nat := (level - prio - 1).toNat

/-- `l` is the highest-priority level whose bit is set in `v`. -/
def IsFirst (prio : BitVec 3) (v : Byte) (l : BitVec 3) : Prop :=
  v.getLsbD l.toNat = true ∧ ∀ x : BitVec 3, v.getLsbD x.toNat = true → rank prio l ≤ rank prio x

/-- `w` is `v` with the bit of level `l` written to `b`. -/
def BitWritten (v : Byte) (l : BitVec 3) (b : Bool) (w : Byte) : Prop :=
  ∀ x : BitVec 3, w.getLsbD x.toNat = if x = l then b else v.getLsbD x.toNat

end Sys2Proof.Machine
end

