-- ==== Sys2Proof/Certificates/Slice0/Obligations.lean ====
section
/-! DEFINITION. The statements for the provers. Each docstring names the rule of spec/ the statement formalises, or says what it rests on. -/

section Statements

open Sys2Proof Sys2Proof.Machine

/-! ## The step, decoding and encoding -/

/-- 40_dispatch.md R164, R165, 20_memory.md R112: a step runs the decoded instruction in the state with the input delivered. The
list of inputs, `cur` and the placing of the host's bytes are the model's (log 1, 6, 8). -/
def Obligations.StepRunsDecoded : Prop :=
  (∀ (s : State) (d : Descriptor) (host : List Byte) (rest : List Input) (i : Instr),
    s.fatal = none → s.inputs = .trap d host :: rest → i.wf = true →
    let t : State := { s with inputs := rest, cur := d, mem := s.mem.writeBytes d.offset.toNat host }
    decode s.seq (.port ⟨d.dir, d.size, d.port, d.count, t.payloadWord⟩) = .ok i → step s = exec i t) ∧
  (∀ (s : State) (a : AgentStep) (rest : List Input),
    s.fatal = none → s.inputs = .agent a :: rest → step s = exec a.instr { s with inputs := rest })

/-- 40_dispatch.md R167: no step follows a fatal. That the model answers a fault there is its own choice (log 3), and so is the step
that changes nothing when no input is left (log 2). -/
def Obligations.NothingFollowsFatal : Prop :=
  (∀ (s : State) (r : FatalRecord), s.fatal = some r → step s = .fault (.terminated r.reason)) ∧
  (∀ s : State, s.fatal = none → s.inputs = [] → step s = .next s) ∧
  (∀ (s : State) (x : Refusal), step s ≠ .refused x)

/-- 60_exceptions.md R421, R422 (class (b)): a step that raises leaves the state it began in but for the record and its event, and
nothing follows. That only a transaction raises the spec derives. The delivery of the input is the model's (log 1, 6, 8). -/
def Obligations.FatalStepKeepsState : Prop :=
  ∀ (s t : State) (r : FatalRecord), s.fatal = none → step s = .next t → t.fatal = some r →
    ∃ (d : Descriptor) (host : List Byte) (rest : List Input),
      s.inputs = .trap d host :: rest ∧
      r.cls = .b ∧ r.port = some d.port ∧ r.dir = some d.dir ∧ r.size = some d.size ∧ r.count = some d.count ∧
      r.byte = some ((s.mem.writeBytes d.offset.toNat host).read d.offset.toNat) ∧
      t = { s with
        inputs := rest
        cur := d
        mem := s.mem.writeBytes d.offset.toNat host
        fatal := some r
        events := s.events ++ [.fatal r] } ∧
      ∀ u, step t ≠ .next u

/-- 30_encoding.md R131 to R151: decoding the code of a well-formed instruction, in a sequencing state its row asks for, gives it
back with every operand. -/
def Obligations.DecodeEncode : Prop :=
  ∀ (c : SeqState) (i : Instr), c.ports = portMap → i.wf = true → i.rowCondition c = true → decode c (encode i) = .ok i

/-- 30_encoding.md R132, R138, 40_dispatch.md R166: the decoder answers well-formed instructions only. -/
def Obligations.DecodeWellFormed : Prop :=
  ∀ (c : SeqState) (k : Code) (i : Instr), decode c k = .ok i → i.wf = true

/-- 30_encoding.md R130, R132, R136, R138, R141, R143, R144, R145, R147, R148, R149 and 20_memory.md R106: some words of the encoding
tables, whose code values the spec takes from general knowledge. The sequencing state a word is read in, and that the other bytes of a
CDB are 0, are the model's (log 13, DESIGN CHOICE). -/
def Obligations.DecodeSampleWords : Prop :=
  decodeTableWord 32 0x90002011 = some (.picIcw1 .primary 0x11) ∧
  decodeTableWord 32 0x9000A065 = some (.picSeoi .secondary 5) ∧
  decodeTableWord 32 0x90004334 = some (.pitCw .c0 3 2 false) ∧
  decodeTableWord 32 0x900064AA = some .kbcSelfTest ∧
  decodeTableWord 32 0x9001F7A1 = some .ataIdentifyPacket ∧
  decodeTableWord 32 0x2001F000 = some (.ataDataRead .w2 1) ∧
  decodeTableWord 32 0x9000D404 = some (.dmaSingleMask .master true 0) ∧
  decodeTableWord 32 0x400CFC00 = some (.pciDataRead .b4 0) ∧
  decodeTableWord 32 0x10007100 = some .cmosDataRead ∧
  decodeTableWord 8 0x28 = some (.cdbRead10 0 0) ∧
  decodeTableWord 8 0x12 = none ∧
  decodeTableWord 32 0x90008000 = none

/-- 30_encoding.md R130: the selector word holds direction, size, port and first data byte, each in its own bits. -/
def Obligations.SelectorRoundTrip : Prop :=
  ∀ (size : Size) (port : BitVec 16) (b : Byte),
    Wire.ofSel (Wire.sel ⟨.out, size, port, 1, b.setWidth 32⟩) = some ⟨.out, size, port, 1, b.setWidth 32⟩ ∧
    Wire.ofSel (Wire.sel ⟨.inp, size, port, 1, 0⟩) = some ⟨.inp, size, port, 1, 0⟩ ∧
    (Wire.sel ⟨.out, size, port, 1, b.setWidth 32⟩).toNat =
      2 ^ 31 + size.bytes * 2 ^ 28 + port.toNat * 2 ^ 8 + b.toNat ∧
    (Wire.sel ⟨.inp, size, port, 1, 0⟩).toNat = size.bytes * 2 ^ 28 + port.toNat * 2 ^ 8

/-- 40_dispatch.md R164, 20_memory.md R106: a transaction, of any shape, at a port outside the map is F03 and runs nothing. -/
def Obligations.UnclaimedPortIsFatal : Prop :=
  ∀ (s : State) (d : Descriptor) (host : List Byte) (rest : List Input), Awaits s (.trap d host) rest →
    (step s = .next (raiseFatal .unclaimedPort (deliver s (.trap d host) rest)) ↔
      ¬ (d.port ≤ 0x0F ∨ (0x20 ≤ d.port ∧ d.port ≤ 0x21) ∨ (0x40 ≤ d.port ∧ d.port ≤ 0x43) ∨ d.port = 0x60 ∨ d.port = 0x64 ∨
        (0x70 ≤ d.port ∧ d.port ≤ 0x71) ∨ (0xA0 ≤ d.port ∧ d.port ≤ 0xA1) ∨ (0xC0 ≤ d.port ∧ d.port ≤ 0xDE) ∨
        (0x170 ≤ d.port ∧ d.port ≤ 0x177) ∨ (0x1F0 ≤ d.port ∧ d.port ≤ 0x1F7) ∨ (0x376 ≤ d.port ∧ d.port ≤ 0x377) ∨
        (0x3F6 ≤ d.port ∧ d.port ≤ 0x3F7) ∨ (0xCF8 ≤ d.port ∧ d.port ≤ 0xCFF)))

/-- 40_dispatch.md R164, R166, with 20_memory.md R106 and, for the accesses that no row accepts, 40_dispatch.md R169, 41_pic.md R198,
42_pit.md R256, 44_ata.md R362, 45_dma.md R384, 46_pci.md R403, 47_cmos.md R414: at a claimed port, a transaction that is in no row of
R166's table is F04 and runs nothing. The rows' sizes and counts, those of PCI and of the ATA data port aside, are the spec's own
choice (R166). -/
def Obligations.UnmappedAccessIsFatal : Prop :=
  ∀ (s : State) (d : Descriptor) (host : List Byte) (rest : List Input), Awaits s (.trap d host) rest →
    (d.port ≤ 0x0F ∨ (0x20 ≤ d.port ∧ d.port ≤ 0x21) ∨ (0x40 ≤ d.port ∧ d.port ≤ 0x43) ∨ d.port = 0x60 ∨ d.port = 0x64 ∨
      (0x70 ≤ d.port ∧ d.port ≤ 0x71) ∨ (0xA0 ≤ d.port ∧ d.port ≤ 0xA1) ∨ (0xC0 ≤ d.port ∧ d.port ≤ 0xDE) ∨
      (0x170 ≤ d.port ∧ d.port ≤ 0x177) ∨ (0x1F0 ≤ d.port ∧ d.port ≤ 0x1F7) ∨ (0x376 ≤ d.port ∧ d.port ≤ 0x377) ∨
      (0x3F6 ≤ d.port ∧ d.port ≤ 0x3F7) ∨ (0xCF8 ≤ d.port ∧ d.port ≤ 0xCFF)) →
    ¬ ((d.port ∈ [0x20, 0xA0, 0x43, 0x70, 0x0A, 0x0B, 0x0D, 0xD4, 0xD6, 0xDA] ∧ d.dir = .out ∧ d.size = .b1 ∧ d.count = 1) ∨
      ((d.port ∈ [0x21, 0xA1, 0x60, 0x64, 0x71, 0x3F6] ∨ (0x40 ≤ d.port ∧ d.port ≤ 0x42) ∨ (0x1F1 ≤ d.port ∧ d.port ≤ 0x1F7)) ∧
        d.size = .b1 ∧ d.count = 1) ∨
      (d.port = 0x1F0 ∧ (d.size = .b2 ∨ d.size = .b4) ∧ 1 ≤ d.count) ∨
      (d.port = 0xCF8 ∧ d.size = .b4 ∧ d.count = 1) ∨
      (0xCFC ≤ d.port ∧ d.port ≤ 0xCFF ∧ d.count = 1)) →
    step s = .next (raiseFatal .unmappedAccess (deliver s (.trap d host) rest))

/-! ## What every step keeps -/

/-- 44_ata.md R365, 43_kbc.md R306, 10_state.md R34, R38 and 90_conflicts.md C22 as one invariant (`State.Inv`): every step keeps it,
from any state that has it. -/
def Obligations.InvariantKept : Prop :=
  ∀ s t : State, s.Inv → step s = .next t → t.Inv

/-- The invariant holds right after reset (the values are 10_state.md's; `Config.launch` is the model's instance, log 4). -/
def Obligations.InvariantAtReset : Prop :=
  (∀ p : Params, p.wf → (State.resetWith p).Inv) ∧ State.reset.Inv

/-- 44_ata.md R365 (i) to (vi) and 43_kbc.md R306 (ii), which the spec derives: they hold of every state a run reaches. -/
def Obligations.ReachableAta : Prop :=
  ∀ s : State, Reachable s →
    (s.ata.dread ≤ s.ata.dsize ∧ s.ata.dsize ≤ s.params.ataBufCap) ∧
    ¬ (s.ata.status.getLsbD 7 = true ∧ s.ata.status.getLsbD 3 = true) ∧
    (s.ata.tag = .cdbIncoming → s.ata.status.getLsbD 3 = true ∧ s.ata.status.getLsbD 7 = false ∧ s.ata.clen < 12) ∧
    (∀ u, s.ata.tag = .identify u → s.ata.status.getLsbD 7 = true ∧ s.ata.status.getLsbD 3 = false) ∧
    (s.ata.status.getLsbD 3 = true → s.ata.tag = .none → s.ata.dread < s.ata.dsize) ∧
    (s.ata.status.getLsbD 0 = true → s.ata.error = 0x04) ∧
    s.kbc.fifo.length ≤ s.params.kbcFifoCap

/-- 10_state.md R34, R33, 00_scope.md R6: no step changes the port map or the parameters, and an event once recorded stays. That
the inputs are taken from the front of a list, one at most a step, is the model's (log 1). -/
def Obligations.ConstantsAndHistoryKept : Prop :=
  ∀ s t : State, step s = .next t →
    t.ports = s.ports ∧ t.params = s.params ∧ (∃ es, t.events = s.events ++ es) ∧
    (t.inputs = s.inputs ∨ ∃ i, s.inputs = i :: t.inputs)

/-- 43_kbc.md R306 (iii), R281, R283: a step appends responses to the FIFO or takes its oldest one, never both. -/
def Obligations.FifoInOrder : Prop :=
  ∀ s t : State, step s = .next t →
    (∃ bs, bs.length ≤ 2 ∧ t.kbc.fifo = s.kbc.fifo ++ bs) ∨ (∃ b, s.kbc.fifo = b :: t.kbc.fifo)

/-- 60_exceptions.md R430, 10_state.md R38, 44_ata.md R364: a request bit is set only by the timer's clock on IRQ0, when channel 0 is
loaded, in a counting mode and at its last count, or by a response of the keyboard controller on IRQ1, and only when its level is
neither masked nor in service. -/
def Obligations.InterruptSources : Prop :=
  ∀ (i : Instr) (s t : State) (u : PicUnit) (l : BitVec 3), exec i s = .next t →
    (s.pic u).irr.getLsbD l.toNat = false → (t.pic u).irr.getLsbD l.toNat = true →
    u = .primary ∧ (s.pic u).imr.getLsbD l.toNat = false ∧ (s.pic u).isr.getLsbD l.toNat = false ∧
    ((l = 0 ∧ i = .pitTick ∧ s.pit0.nullCount = false ∧ s.params.pitTickModes.getLsbD s.pit0.mode.toNat = true ∧
          s.pit0.count = 1) ∨
      (l = 1 ∧ s.kbc.config.getLsbD 0 = true ∧ t.kbc.fifo.length > s.kbc.fifo.length))

/-- 41_pic.md R210, 20_memory.md R114: an admitted raise sets one bit of one unit and nothing else; a level pending, in service or
masked drops it; a second raise changes nothing; a number past 15 is F10. That the unit is `n` div 8 the spec takes from general
knowledge. -/
def Obligations.RaiseAdmission : Prop :=
  (∀ (n : Nat) (s : State), n > 15 → picRaise n s = .error .outOfRange) ∧
  (∀ (n : Nat) (s : State), n ≤ 15 →
    ∃ (v : Byte) (t : State), picRaise n s = .ok t ∧
      t = (if n < 8 then { s with pic0 := { s.pic0 with irr := v } } else { s with pic1 := { s.pic1 with irr := v } }) ∧
      (let p : Pic := if n < 8 then s.pic0 else s.pic1
       let l : BitVec 3 := BitVec.ofNat 3 (n % 8)
       BitWritten p.irr l
         (p.irr.getLsbD l.toNat || (!p.isr.getLsbD l.toNat && !p.imr.getLsbD l.toNat)) v) ∧
      picRaise n t = .ok t)

/-- 45_dma.md R385, which the spec derives: two states that differ in the DMA units alone stay so, whatever the step. -/
def Obligations.DmaUnobservable : Prop :=
  ∀ (s t : State) (d0 d1 : Dma), step s = .next t →
    ∃ e0 e1 : Dma, step { s with dma0 := d0, dma1 := d1 } = .next { t with dma0 := e0, dma1 := e1 }

/-- 41_pic.md R200: two states that differ in ICW3, the poll and special-mask flags, and the unread bits of ICW1 and ICW4 alone stay
so, whatever the step. -/
def Obligations.UnreadPicFields : Prop :=
  let alike (p q : Pic) : Prop :=
    p.icw1 &&& 0x03 = q.icw1 &&& 0x03 ∧ p.icw4 &&& 0x02 = q.icw4 &&& 0x02 ∧
    q = { p with icw1 := q.icw1, icw3 := q.icw3, icw4 := q.icw4, poll := q.poll, smm := q.smm }
  ∀ (s t : State) (p0 p1 : Pic), alike s.pic0 p0 → alike s.pic1 p1 → step s = .next t →
    ∃ q0 q1 : Pic, alike t.pic0 q0 ∧ alike t.pic1 q1 ∧
      step { s with pic0 := p0, pic1 := p1 } = .next { t with pic0 := q0, pic1 := q1 }

/-- 47_cmos.md R416: no rule but CMOS_DATA_WRITE changes the registers, and it changes one. -/
def Obligations.CmosRegistersHold : Prop :=
  ∀ (i : Instr) (s t : State), exec i s = .next t → t.cmos.regs ≠ s.cmos.regs →
    ∃ b, i = .cmosDataWrite b ∧ t.cmos.regs = s.cmos.regs.set s.cmos.idx.toNat b

/-! ## Start-up and reset -/

/-- 70_reset_and_hazards.md R461, R462, 40_dispatch.md R162: the registrations, run from devices that hold anything, leave every device
as `State.resetWith` has it, the port map of 20_memory.md R106, no fatal and no event. -/
def Obligations.StartUpIsReset : Prop :=
  ∀ s : State, startUp true registrations s =
    { State.resetWith s.params with
      mem := s.mem, cur := s.cur, inputs := s.inputs, draws := s.draws, hostAnswer := s.hostAnswer }

/-- 40_dispatch.md R163, which the spec derives: the order of the registrations changes no device and no port's handler. That start-up
is a function, and which range carries a device's initializer, is the model's (log 18, DESIGN CHOICE). -/
def Obligations.StartUpInAnyOrder : Prop :=
  ∀ (order : List Registration) (s : State), order.Perm registrations →
    ∃ ports, startUp true order s = { startUp true registrations s with ports := ports } ∧
      ∀ p, handlerAt ports p = handlerAt portMap p

/-- 40_dispatch.md R161, R162, 60_exceptions.md R422: a range with a claimed port is F01 with the lowest such port, an image that
cannot be opened is F02, and neither claims a port. How start-up is modelled is log 18. -/
def Obligations.RegistrationErrors : Prop :=
  (∀ (b : Bool) (g : Registration) (s : State) (p : BitVec 16),
    s.fatal = none → (g.init = some .ata → b = true) →
    g.range.lo ≤ p → p ≤ g.range.hi → handlerAt s.ports p ≠ none →
    (∀ q, g.range.lo ≤ q → q < p → handlerAt s.ports q = none) →
    let r : FatalRecord := ⟨.duplicatePortRegistration, .a, some p, none, none, none, none⟩
    register b g s = { s with fatal := some r, events := s.events ++ [.fatal r] }) ∧
  (∀ (g : Registration) (s : State), s.fatal = none → g.init = some .ata →
    let r : FatalRecord := ⟨.backingFileUnopenable, .a, none, none, none, none, none⟩
    register false g s = { s with fatal := some r, events := s.events ++ [.fatal r] })

/-- 10_state.md R36: every level of both units is masked after reset. -/
def Obligations.ResetMasks : Prop :=
  ∀ (p : Params) (u : PicUnit), ((State.resetWith p).pic u).imr = 0xFF ∧ (State.reset.pic u).imr = 0xFF

/-- 10_state.md R35, R37, R41, R42, R50, R55, R60, R61, R63, R64 and 70_reset_and_hazards.md R460: the reset values, which the spec
calls its own choice, and the parameters of R6 where it leaves them open. -/
def Obligations.ResetValues : Prop :=
  ∀ p : Params,
    let s := State.resetWith p
    (∀ u, s.pic u = {
      init := .icw1, icw1 := 0, icw2 := (match u with | .primary => p.picResetBase0 | .secondary => p.picResetBase1),
      icw3 := 0, icw4 := 0, imr := 0xFF, irr := 0, isr := 0, prio := 7, rsel := .imr, poll := false, smm := false,
      rotAeoi := false }) ∧
    (∀ c, s.pit c = {
      reload := 0, count := 0, access := 0, mode := 0, bcd := false, lowNext := true, nullCount := true,
      clPend := false, clVal := 0, slPend := false, slVal := 0 }) ∧
    s.kbc = {
      status := p.kbcStatusInit, config := p.kbcConfigInit, outport := p.kbcOutportInit, fifo := [], expect := .none,
      devExpect := .none } ∧
    s.ata = {
      features := 0, seccount := 0, lba0 := 0, lba1 := 0, lba2 := 0, drvhead := 0, status := 0x40, error := 0, devctl := 0,
      dbuf := List.replicate p.ataBufCap 0, dsize := 0, dread := 0, cdb := List.replicate 12 0, clen := 0, tag := .none } ∧
    (∀ k, s.dma k = { mode := 0, mask := 0x0F, flipflop := false, status := 0 }) ∧
    s.pci.addr = 0 ∧ s.pci.curIndex = 0 ∧ s.pci.curReg = 0 ∧
    s.cmos = { idx := 0, nmiDis := false, regs := p.cmosInit } ∧
    s.fatal = none ∧ s.events = []

/-- 46_pci.md R396: the host bridge's identifiers, and every block but the two open ones all zero. The identifiers' byte offsets the
spec takes from general knowledge. -/
def Obligations.PciInitialContents : Prop :=
  ∀ p : Params, p.wf →
    let b := (State.resetWith p).pci.blocks
    b.length = p.pciNumBlocks ∧
    (∀ i, i < p.pciNumBlocks → (b.getD i []).length = 256) ∧
    ((b.getD 0 []).take 4 = [0x86, 0x80, 0x37, 0x12]) ∧
    (∀ i, i < p.pciNumBlocks → i ≠ 0 → i ≠ p.pciDisplayIndex → ∀ j, (b.getD i []).getD j 0 = 0)

/-- 70_reset_and_hazards.md R463, which the spec derives: right after start-up nothing is delivered, nothing counts, an ATA data access
is fatal, and the two-step PCI read finds the vendor id. -/
def Obligations.PostResetFacts : Prop :=
  ∀ p : Params, p.wf →
    (∀ (u : PicUnit) (is : List Input), step ((State.resetWith p).withInputs (.agent (.hostTake u) :: is)) =
      .next ((State.resetWith p).withInputs is)) ∧
    (∀ (ie : Bool) (is : List Input), step ((State.resetWith p).withInputs (.agent (.picTick ie) :: is)) =
      .next ((State.resetWith p).withInputs is)) ∧
    (∀ is : List Input, step ((State.resetWith p).withInputs (.agent .pitTick :: is)) = .next ((State.resetWith p).withInputs is)) ∧
    (∀ (d : Descriptor) (host : List Byte) (is : List Input), d.port = 0x1F0 →
      ∃ t, step ((State.resetWith p).withInputs (.trap d host :: is)) = .next t ∧ t.fatal ≠ none) ∧
    (∃ t u, step ((State.resetWith p).withInputs
        [.trap ⟨.out, .b4, 0xCF8, 1, 0⟩ [0x00, 0x00, 0x00, 0x80], .trap ⟨.inp, .b2, 0xCFC, 1, 0⟩ [0x00, 0x00]]) = .next t ∧
      step t = .next u ∧ u.fatal = none ∧ u.mem.read 0 = 0x86 ∧ u.mem.read 1 = 0x80)

/-! ## The interrupt controller -/

/-- 41_pic.md R182, R183, R184, R185, R187. -/
def Obligations.PicCommandWords : Prop :=
  ∀ (u : PicUnit) (b : Byte) (s : State),
    let p := s.pic u
    (p.init = .icw1 → exec (.picIcw1 u b) s = .next (s.setPic u { p with icw1 := b, icw4 := 0, rsel := .imr, init := .icw2 })) ∧
    exec (.picIcw2 u b) s = .next (s.setPic u { p with
      icw2 := b
      init := if p.icw1.getLsbD 1 = false then .icw3 else if p.icw1.getLsbD 0 = true then .icw4 else .icw1 }) ∧
    exec (.picIcw3 u b) s = .next (s.setPic u { p with
      icw3 := b
      init := if p.icw1.getLsbD 0 = true then .icw4 else .icw1 }) ∧
    exec (.picIcw4 u b) s = .next (s.setPic u { p with icw4 := b, init := .icw1 }) ∧
    exec (.picOcw1 u b) s = .next (s.setPic u { p with imr := b })

/-- 41_pic.md R188, R190, with R186's order: the highest-priority level in service ends; in the rotating form it becomes the lowest;
with none in service nothing changes. That the cursor names the lowest-priority level is the spec's own choice (R186). -/
def Obligations.PicNonSpecificEoi : Prop :=
  ∀ (u : PicUnit) (s : State),
    let p := s.pic u
    p.init = .icw1 →
    (p.isr = 0 → exec (.picNseoi u) s = .next s ∧ exec (.picRotNseoi u) s = .next s) ∧
    (p.isr ≠ 0 → ∃ (l : BitVec 3) (v : Byte), IsFirst p.prio p.isr l ∧ BitWritten p.isr l false v ∧
      exec (.picNseoi u) s = .next (s.setPic u { p with isr := v }) ∧
      exec (.picRotNseoi u) s = .next (s.setPic u { p with isr := v, prio := l }))

/-- 41_pic.md R189, R191, R192, R193, R194, R195. -/
def Obligations.PicOcw2 : Prop :=
  ∀ (u : PicUnit) (l : BitVec 3) (s : State),
    let p := s.pic u
    p.init = .icw1 →
    (∃ v, BitWritten p.isr l false v ∧
      exec (.picSeoi u l) s = .next (s.setPic u { p with isr := v }) ∧
      exec (.picRotSeoi u l) s = .next (s.setPic u { p with isr := v, prio := l })) ∧
    exec (.picSetpri u l) s = .next (s.setPic u { p with prio := l }) ∧
    exec (.picRotAeoiSet u) s = .next (s.setPic u { p with rotAeoi := true }) ∧
    exec (.picRotAeoiClr u) s = .next (s.setPic u { p with rotAeoi := false }) ∧
    exec (.picOcw2Nop u) s = .next s

/-- 41_pic.md R196, R197; that RR = 0 selects IMR is the spec's own choice. -/
def Obligations.PicOcw3AndRead : Prop :=
  ∀ (u : PicUnit) (b : Byte) (s : State),
    let p := s.pic u
    (p.init = .icw1 → exec (.picOcw3 u b) s = .next (s.setPic u { p with
      rsel := if b.getLsbD 1 = false then .imr else if b.getLsbD 0 = true then .isr else .irr
      poll := b.getLsbD 2
      smm := if b.getLsbD 6 = true then b.getLsbD 5 else p.smm })) ∧
    (s.mem.wf = true → Completes (exec (.picDataRead u) s) s
      [if p.rsel = .imr then p.imr else if p.rsel = .irr then p.irr else p.isr])

/-- 41_pic.md R181: a byte on the command port is F08 while initialization is in progress (for an OCW, by the spec's own choice);
otherwise its bits choose the command. -/
def Obligations.PicCommandPort : Prop :=
  ∀ (u : PicUnit) (b : Byte) (off : BitVec 64) (s : State) (rest : List Input),
    let i := outByte (match u with | .primary => 0x20 | .secondary => 0xA0) off b
    Awaits s i rest →
    ((s.pic u).init ≠ .icw1 → step s = .next (raiseFatal .initSequenceViolation (deliver s i rest))) ∧
    ((s.pic u).init = .icw1 → step s = exec
      (if b.getLsbD 4 = true then .picIcw1 u b
       else if b.getLsbD 3 = true then .picOcw3 u b
       else match b.toNat / 32 with
        | 0 => .picRotAeoiClr u
        | 1 => .picNseoi u
        | 2 => .picOcw2Nop u
        | 3 => .picSeoi u (b.setWidth 3)
        | 4 => .picRotAeoiSet u
        | 5 => .picRotNseoi u
        | 6 => .picSetpri u (b.setWidth 3)
        | _ => .picRotSeoi u (b.setWidth 3)) (deliver s i rest))

/-- 41_pic.md R183, R184, R185, R187, R197, 30_encoding.md R131: the word that a unit expects chooses what a byte on its data port is; a
read of that port is the data read whatever the unit expects. -/
def Obligations.PicDataPort : Prop :=
  ∀ (u : PicUnit) (b : Byte) (off : BitVec 64) (host : List Byte) (s : State) (rest : List Input),
    let port : BitVec 16 := match u with | .primary => 0x21 | .secondary => 0xA1
    let w := outByte port off b
    let r := inByte port off host
    (Awaits s w rest →
      ((s.pic u).init = .icw1 → step s = exec (.picOcw1 u b) (deliver s w rest)) ∧
      ((s.pic u).init = .icw2 → step s = exec (.picIcw2 u b) (deliver s w rest)) ∧
      ((s.pic u).init = .icw3 → step s = exec (.picIcw3 u b) (deliver s w rest)) ∧
      ((s.pic u).init = .icw4 → step s = exec (.picIcw4 u b) (deliver s w rest))) ∧
    (Awaits s r rest → step s = exec (.picDataRead u) (deliver s r rest))

/-- 41_pic.md R211, R214, R201, 60_exceptions.md R440: HOST_TAKE delivers the highest-priority request that is not masked, whatever is
in service; its vector is the base plus the level; it is put in service unless AEOI is on. Which request comes first is R186's order,
and that its cursor names the lowest-priority level is the spec's own choice. -/
def Obligations.PicTake : Prop :=
  ∀ (u : PicUnit) (s : State),
    let p := s.pic u
    (p.irr &&& ~~~ p.imr = 0 → exec (.hostTake u) s = .next s) ∧
    (p.irr &&& ~~~ p.imr ≠ 0 → ∃ (l : BitVec 3) (v w : Byte),
      IsFirst p.prio (p.irr &&& ~~~ p.imr) l ∧ BitWritten p.irr l false v ∧
      BitWritten p.isr l (p.isr.getLsbD l.toNat || !p.icw4.getLsbD 1) w ∧
      exec (.hostTake u) s = .next
        { s.setPic u { p with
            irr := v
            isr := w
            prio := if p.icw4.getLsbD 1 = true ∧ p.rotAeoi = true then l else p.prio } with
          events := s.events ++ [.inject (BitVec.ofNat 8 ((p.icw2.toNat + l.toNat) % 256))] })

/-- 41_pic.md R212, R213: a tick takes the primary unit and then the secondary, or nothing; the pending question changes no state of
the block (the answer's field is the model's, log 11). -/
def Obligations.PicTickAndPending : Prop :=
  (∀ s : State, exec (.picTick false) s = .next s) ∧
  (∀ s : State, ∃ t, exec (.hostTake .primary) s = .next t ∧ exec (.picTick true) s = exec (.hostTake .secondary) t ∧
    ∃ u, exec (.hostTake .secondary) t = .next u) ∧
  (∀ (u : PicUnit) (s : State), exec (.hostPending u) s =
    .next { s with hostAnswer := some (decide ((s.pic u).irr &&& ~~~ (s.pic u).imr ≠ 0)) })

/-! ## The interval timer -/

/-- 42_pit.md R242, R243. -/
def Obligations.PitControlAndLatch : Prop :=
  ∀ (c : PitChan) (rw : BitVec 2) (m : BitVec 3) (bcd : Bool) (s : State),
    let q := s.pit c
    exec (.pitCw c rw m bcd) s = .next (s.setPit c { q with access := rw, mode := m, bcd := bcd, lowNext := true }) ∧
    (q.clPend = false → exec (.pitLatch c) s = .next (s.setPit c { q with clVal := q.count, clPend := true })) ∧
    (q.clPend = true → exec (.pitLatch c) s = .next s)

/-- 42_pit.md R244, R255, 30_encoding.md R140: each selected channel latches what is asked for and not yet pending; the status byte is
`OUT`, null count, access, mode and BCD, with `OUT` free. -/
def Obligations.PitReadback : Prop :=
  ∀ (countN statusN : Bool) (sel : BitVec 3) (s : State), ∃ t : State,
    exec (.pitReadback countN statusN sel) s = .next t ∧
    { t with pit0 := s.pit0, pit1 := s.pit1, pit2 := s.pit2, draws := s.draws } = s ∧
    ∀ c : PitChan, ∃ out : Bool,
      let q := s.pit c
      let chosen := sel.getLsbD (match c with | .c0 => 0 | .c1 => 1 | .c2 => 2)
      t.pit c =
        { q with
          clVal := if chosen = true ∧ countN = false ∧ q.clPend = false then q.count else q.clVal
          clPend := q.clPend || (chosen && !countN)
          slVal :=
            if chosen = true ∧ statusN = false ∧ q.slPend = false then
              BitVec.ofNat 8 (out.toNat * 128 + q.nullCount.toNat * 64 + q.access.toNat * 16 + q.mode.toNat * 2 + q.bcd.toNat)
            else q.slVal
          slPend := q.slPend || (chosen && !statusN) }

/-- 42_pit.md R246, R247, R248, R249. -/
def Obligations.PitDataWrites : Prop :=
  ∀ (c : PitChan) (b : Byte) (s : State),
    let q := s.pit c
    q.access ≠ 0 →
    (let v : Half := BitVec.ofNat 16 b.toNat
     exec (.pitWLsb c b) s = .next (s.setPit c { q with reload := v, count := v, nullCount := false })) ∧
    (let v : Half := BitVec.ofNat 16 (b.toNat * 256)
     exec (.pitWMsb c b) s = .next (s.setPit c { q with reload := v, count := v, nullCount := false })) ∧
    (let v : Half := BitVec.ofNat 16 (q.reload.toNat / 256 * 256 + b.toNat)
     exec (.pitWLow c b) s = .next (s.setPit c { q with reload := v, nullCount := true, lowNext := false })) ∧
    (let v : Half := BitVec.ofNat 16 (b.toNat * 256 + q.reload.toNat % 256)
     exec (.pitWHigh c b) s = .next (s.setPit c { q with reload := v, count := v, nullCount := false, lowNext := true }))

/-- 42_pit.md R250 (the status latch), R252, R253, R254. -/
def Obligations.PitDataReads : Prop :=
  ∀ (c : PitChan) (s : State), s.mem.wf = true →
    let q := s.pit c
    let byteOf (v : Half) : Byte :=
      if q.access = 2 ∨ (q.access = 3 ∧ q.lowNext = false) then BitVec.ofNat 8 (v.toNat / 256) else BitVec.ofNat 8 v.toNat
    let next : Bool := if q.access = 3 then !q.lowNext else q.lowNext
    Completes (exec (.pitDataRead c) s) (s.setPit c { q with slPend := false }) [q.slVal] ∧
    (q.access ≠ 0 →
      Completes (exec (.pitRLatched c) s)
        (s.setPit c { q with lowNext := next, clPend := q.clPend && (decide (q.access = 3) && q.lowNext) }) [byteOf q.clVal] ∧
      Completes (exec (.pitRLive c) s) (s.setPit c { q with lowNext := next })
        [byteOf (if q.nullCount = true then q.reload else q.count)])

/-- 42_pit.md R241, with R242, R243, R244 and 30_encoding.md R138, R139: every byte on port 0x43 is a read-back, a latch or a control word;
bit 0 of a read-back and bits 3:0 of a latch choose nothing. -/
def Obligations.PitCommandPort : Prop :=
  ∀ (b : Byte) (off : BitVec 64) (s : State) (rest : List Input),
    let i := outByte 0x43 off b
    let channel : PitChan := if b.toNat / 64 = 0 then .c0 else if b.toNat / 64 = 1 then .c1 else .c2
    Awaits s i rest →
    (b.toNat / 64 = 3 →
      step s = exec (.pitReadback (b.getLsbD 5) (b.getLsbD 4) (BitVec.ofNat 3 (b.toNat / 2))) (deliver s i rest)) ∧
    (b.toNat / 64 ≠ 3 → b.toNat / 16 % 4 = 0 → step s = exec (.pitLatch channel) (deliver s i rest)) ∧
    (b.toNat / 64 ≠ 3 → b.toNat / 16 % 4 ≠ 0 →
      step s = exec (.pitCw channel (BitVec.ofNat 2 (b.toNat / 16)) (BitVec.ofNat 3 (b.toNat / 2)) (b.getLsbD 0)) (deliver s i rest))

/-- 42_pit.md R245, R250, R251: the channel's cursors choose the data-port access, and an unprogrammed channel is F04, a pending status
latch excepted. -/
def Obligations.PitDataPort : Prop :=
  ∀ (c : PitChan) (b : Byte) (off : BitVec 64) (host : List Byte) (s : State) (rest : List Input),
    let port : BitVec 16 := match c with | .c0 => 0x40 | .c1 => 0x41 | .c2 => 0x42
    let q := s.pit c
    let w := outByte port off b
    let r := inByte port off host
    (Awaits s w rest →
      (q.access = 0 → step s = .next (raiseFatal .unmappedAccess (deliver s w rest))) ∧
      (q.access = 1 → step s = exec (.pitWLsb c b) (deliver s w rest)) ∧
      (q.access = 2 → step s = exec (.pitWMsb c b) (deliver s w rest)) ∧
      (q.access = 3 → step s = exec (if q.lowNext = true then .pitWLow c b else .pitWHigh c b) (deliver s w rest))) ∧
    (Awaits s r rest →
      (q.slPend = true → step s = exec (.pitDataRead c) (deliver s r rest)) ∧
      (q.slPend = false → q.access = 0 → step s = .next (raiseFatal .unmappedAccess (deliver s r rest))) ∧
      (q.slPend = false → q.access ≠ 0 →
        step s = exec (if q.clPend = true then .pitRLatched c else .pitRLive c) (deliver s r rest)))

/-- 42_pit.md R262: a loaded channel in a counting mode counts down, and reloads on reaching 0; channel 0's terminal count raises IRQ0
by R210; nothing else changes. -/
def Obligations.PitTick : Prop :=
  ∀ s : State,
    let counts (q : Pit) : Prop := q.nullCount = false ∧ s.params.pitTickModes.getLsbD q.mode.toNat = true
    ∃ t : State, exec .pitTick s = .next t ∧
      (∀ c, let q := s.pit c
        (¬ counts q → t.pit c = q) ∧
        (counts q → q.count = 1 → t.pit c = { q with count := q.reload }) ∧
        (counts q → q.count ≠ 1 → t.pit c = { q with count := BitVec.ofNat 16 ((q.count.toNat + 65535) % 65536) })) ∧
      ((¬ counts s.pit0 ∨ s.pit0.count ≠ 1) → { t with pit0 := s.pit0, pit1 := s.pit1, pit2 := s.pit2 } = s) ∧
      (counts s.pit0 → s.pit0.count = 1 →
        .ok { t with pit0 := s.pit0, pit1 := s.pit1, pit2 := s.pit2 } = picRaise 0 s)

/-! ## The keyboard controller -/

/-- 43_kbc.md R282, R283. -/
def Obligations.KbcReads : Prop :=
  ∀ s : State, s.mem.wf = true →
    Completes (exec .kbcStatusRead s) s [(s.kbc.status &&& 0xFE) + (if s.kbc.fifo = [] then 0 else 1)] ∧
    (s.kbc.fifo = [] → Completes (exec .kbcDataRead s) s [0xFF]) ∧
    (∀ b bs, s.kbc.fifo = b :: bs → Completes (exec .kbcDataRead s) { s with kbc := { s.kbc with fifo := bs } } [b])

/-- 43_kbc.md R285, R286, R287, R290, R291, R293, R297, R298. That the output port has no side effect is the spec's own choice (R298,
decision D64). -/
def Obligations.KbcRegisterWrites : Prop :=
  ∀ (b : Byte) (s : State),
    let k := s.kbc
    (k.expect = .none →
      exec .kbcWriteConfig s = .next { s with kbc := { k with expect := .config } } ∧
      exec .kbcWriteOutport s = .next { s with kbc := { k with expect := .outport } } ∧
      exec .kbcDisablePort2 s = .next { s with kbc := { k with config := k.config ||| 0x20 } } ∧
      exec .kbcEnablePort2 s = .next { s with kbc := { k with config := k.config &&& 0xDF } } ∧
      exec .kbcDisablePort1 s = .next { s with kbc := { k with config := k.config ||| 0x10 } } ∧
      exec .kbcEnablePort1 s = .next { s with kbc := { k with config := k.config &&& 0xEF } }) ∧
    exec (.kbcConfigPayload b) s = .next { s with kbc := { k with config := b, expect := .none } } ∧
    exec (.kbcOutportPayload b) s = .next { s with kbc := { k with outport := b, expect := .none } }

/-- 43_kbc.md R284, R288, R289, R292, R299, R300, R301, R302, R303, with R281's queueing: while the FIFO has room for the responses. -/
def Obligations.KbcResponses : Prop :=
  ∀ (b : Byte) (s : State), s.kbc.fifo.length < s.params.kbcFifoCap →
    (s.kbc.expect = .none →
      exec .kbcReadConfig s = .next (afterEnqueue s.kbc.config s) ∧
      exec .kbcReadOutport s = .next (afterEnqueue s.kbc.outport s) ∧
      exec .kbcTestPort1 s = .next (afterEnqueue 0x00 s) ∧
      exec .kbcSelfTest s = .next
        { afterEnqueue 0x55 s with kbc := { (afterEnqueue 0x55 s).kbc with status := s.kbc.status &&& 0xFB } }) ∧
    exec .kbdEnableScan s = .next (afterEnqueue 0xFA s) ∧
    exec .kbdDisableScan s = .next (afterEnqueue 0xFA s) ∧
    exec .kbdSetScanset s = .next
      { afterEnqueue 0xFA s with kbc := { (afterEnqueue 0xFA s).kbc with devExpect := .scansetArg } } ∧
    exec (.kbdScansetArg b) s = .next
      { afterEnqueue 0xFA s with kbc := { (afterEnqueue 0xFA s).kbc with devExpect := .none } } ∧
    (s.kbc.fifo.length + 1 < s.params.kbcFifoCap →
      exec .kbdReset s = .next (afterEnqueue 0xAA
        { afterEnqueue 0xFA s with kbc := { (afterEnqueue 0xFA s).kbc with status := s.params.kbcStatusInit } }))

/-- 43_kbc.md R281: a response that finds the FIFO full is F09, and nothing of the step remains. -/
def Obligations.KbcFifoFull : Prop :=
  ∀ (b : Byte) (s : State),
    (s.kbc.fifo.length = s.params.kbcFifoCap →
      (s.kbc.expect = .none →
        exec .kbcReadConfig s = .next (raiseFatal .capacityExceeded s) ∧
        exec .kbcReadOutport s = .next (raiseFatal .capacityExceeded s) ∧
        exec .kbcTestPort1 s = .next (raiseFatal .capacityExceeded s) ∧
        exec .kbcSelfTest s = .next (raiseFatal .capacityExceeded s)) ∧
      exec .kbdEnableScan s = .next (raiseFatal .capacityExceeded s) ∧
      exec .kbdDisableScan s = .next (raiseFatal .capacityExceeded s) ∧
      exec .kbdSetScanset s = .next (raiseFatal .capacityExceeded s) ∧
      exec (.kbdScansetArg b) s = .next (raiseFatal .capacityExceeded s)) ∧
    (s.kbc.fifo.length = s.params.kbcFifoCap ∨ s.kbc.fifo.length + 1 = s.params.kbcFifoCap →
      exec .kbdReset s = .next (raiseFatal .capacityExceeded s))

/-- 43_kbc.md R294, R295, 30_encoding.md R141: a byte on port 0x64 is F08 while a payload is expected, whatever the byte; else it is
one of ten commands or F05. The F08 is the spec's own choice (R295, decision D28); where the decoder stands on it for a byte that is no
command is log 21. -/
def Obligations.KbcCommandPort : Prop :=
  ∀ (b : Byte) (off : BitVec 64) (s : State) (rest : List Input),
    let i := outByte 0x64 off b
    let run (x : Instr) : Prop := step s = exec x (deliver s i rest)
    Awaits s i rest →
    (s.kbc.expect ≠ .none → step s = .next (raiseFatal .initSequenceViolation (deliver s i rest))) ∧
    (s.kbc.expect = .none →
      (b = 0x20 → run .kbcReadConfig) ∧ (b = 0x60 → run .kbcWriteConfig) ∧ (b = 0xA7 → run .kbcDisablePort2) ∧
      (b = 0xA8 → run .kbcEnablePort2) ∧ (b = 0xAA → run .kbcSelfTest) ∧ (b = 0xAB → run .kbcTestPort1) ∧
      (b = 0xAD → run .kbcDisablePort1) ∧ (b = 0xAE → run .kbcEnablePort1) ∧ (b = 0xD0 → run .kbcReadOutport) ∧
      (b = 0xD1 → run .kbcWriteOutport) ∧
      (b ∉ [0x20, 0x60, 0xA7, 0xA8, 0xAA, 0xAB, 0xAD, 0xAE, 0xD0, 0xD1] →
        step s = .next (raiseFatal .unrecognizedCommand (deliver s i rest))))

/-- 43_kbc.md R296, R304, R305: a byte on port 0x60 is the pending payload, else the pending keyboard argument, else one of four
keyboard commands or F05; F06 when nothing is forwarded, which no instance within R6 is (decision D30, log 20). -/
def Obligations.KbcDataPort : Prop :=
  ∀ (b : Byte) (off : BitVec 64) (s : State) (rest : List Input),
    let i := outByte 0x60 off b
    let run (x : Instr) : Prop := step s = exec x (deliver s i rest)
    Awaits s i rest →
    (s.kbc.expect = .config → run (.kbcConfigPayload b)) ∧
    (s.kbc.expect = .outport → run (.kbcOutportPayload b)) ∧
    (s.kbc.expect = .none →
      (s.params.kbcForward = false → step s = .next (raiseFatal .dataWriteNotRequested (deliver s i rest))) ∧
      (s.params.kbcForward = true →
        (s.kbc.devExpect = .scansetArg → run (.kbdScansetArg b)) ∧
        (s.kbc.devExpect = .none →
          (b = 0xF0 → run .kbdSetScanset) ∧ (b = 0xF4 → run .kbdEnableScan) ∧ (b = 0xF5 → run .kbdDisableScan) ∧
          (b = 0xFF → run .kbdReset) ∧
          (b ∉ [0xF0, 0xF4, 0xF5, 0xFF] → step s = .next (raiseFatal .unrecognizedCommand (deliver s i rest))))))

/-! ## The ATA channel -/

/-- 44_ata.md R322, R323, R324, R325, R326. -/
def Obligations.AtaRegisters : Prop :=
  ∀ (b : Byte) (s : State),
    let a := s.ata
    exec (.ataLatchWrite .features b) s = .next { s with ata := { a with features := b } } ∧
    exec (.ataLatchWrite .seccount b) s = .next { s with ata := { a with seccount := b } } ∧
    exec (.ataLatchWrite .lba0 b) s = .next { s with ata := { a with lba0 := b } } ∧
    exec (.ataLatchWrite .lba1 b) s = .next { s with ata := { a with lba1 := b } } ∧
    exec (.ataLatchWrite .lba2 b) s = .next { s with ata := { a with lba2 := b } } ∧
    exec (.ataLatchWrite .drvhead b) s = .next { s with ata := { a with drvhead := b } } ∧
    (s.mem.wf = true →
      Completes (exec (.ataLatchRead .seccount) s) s [a.seccount] ∧
      Completes (exec (.ataLatchRead .lba0) s) s [a.lba0] ∧
      Completes (exec (.ataLatchRead .lba1) s) s [a.lba1] ∧
      Completes (exec (.ataLatchRead .lba2) s) s [a.lba2] ∧
      Completes (exec (.ataLatchRead .drvhead) s) s [a.drvhead] ∧
      Completes (exec .ataErrorRead s) s [a.error] ∧
      Completes (exec .ataStatusRead s) s [a.status] ∧
      Completes (exec .ataAltstatusRead s) s [a.status])

/-- 44_ata.md R331, R332, R333, R334 with R321, R328, R330: the commands while none is in progress. The unit is the drive bit. That
an accepted command clears the error first (R328) is the spec's own choice. -/
def Obligations.AtaCommands : Prop :=
  ∀ s : State,
    let a := s.ata
    let aborted : Ata := { a with status := (a.status ||| 0x01) &&& 0x77, error := 0x04 }
    a.status.getLsbD 7 = false → a.tag = .none →
    exec .ataNop s = .next s ∧
    (a.drvhead.getLsbD 4 = false →
      exec .ataIdentifyPacket s = .next { s with ata :=
        { a with status := (a.status &&& 0xF6) ||| 0x80, error := 0, tag := .identify .atapi } } ∧
      exec .ataIdentify s = .next { s with ata := aborted } ∧
      exec .ataPacket s = .next { s with ata :=
        { a with status := (a.status &&& 0x7E) ||| 0x08, error := 0, tag := .cdbIncoming, clen := 0 } }) ∧
    (a.drvhead.getLsbD 4 = true →
      exec .ataIdentifyPacket s = .next { s with ata := aborted } ∧
      exec .ataIdentify s = .next { s with ata :=
        { a with status := (a.status &&& 0xF6) ||| 0x80, error := 0, tag := .identify .disk } } ∧
      exec .ataPacket s = .next { s with ata := aborted })

/-- 44_ata.md R327, R329: a byte on port 0x1F7 is F11 while a command is in progress, whatever the byte; else it is one of four
commands or F05. The F11 is the spec's own choice: the source defines no behaviour there (R327, decision D36); where the decoder stands
on it for a byte that is no command is log 21. -/
def Obligations.AtaCommandPort : Prop :=
  ∀ (b : Byte) (off : BitVec 64) (s : State) (rest : List Input),
    let i := outByte 0x1F7 off b
    let run (x : Instr) : Prop := step s = exec x (deliver s i rest)
    Awaits s i rest →
    (s.ata.status.getLsbD 7 = true ∨ s.ata.tag ≠ .none → step s = .next (raiseFatal .busy (deliver s i rest))) ∧
    (s.ata.status.getLsbD 7 = false → s.ata.tag = .none →
      (b = 0x00 → run .ataNop) ∧ (b = 0xA1 → run .ataIdentifyPacket) ∧ (b = 0xEC → run .ataIdentify) ∧
      (b = 0xA0 → run .ataPacket) ∧
      (b ∉ [0x00, 0xA1, 0xEC, 0xA0] → step s = .next (raiseFatal .unrecognizedCommand (deliver s i rest))))

/-- 44_ata.md R340, R341 before the twelfth byte: the CDB takes the payload in host-buffer order; F06 outside the CDB phase; F09 past
twelve bytes. -/
def Obligations.AtaCdbBytes : Prop :=
  ∀ (w : DataWidth) (count : BitVec 32) (s : State),
    let n := w.size.bytes * count.toNat
    let a := s.ata
    (a.status.getLsbD 3 = false ∨ a.tag ≠ .cdbIncoming →
      exec (.ataDataWrite w count) s = .next (raiseFatal .dataWriteNotRequested s)) ∧
    (a.status.getLsbD 3 = true → a.tag = .cdbIncoming →
      (12 < a.clen + n → exec (.ataDataWrite w count) s = .next (raiseFatal .capacityExceeded s)) ∧
      (a.clen + n < 12 → a.cdb.length = 12 → ∃ cdb : List Byte, cdb.length = 12 ∧
        (∀ j, j < 12 → cdb.getD j 0 =
          if a.clen ≤ j ∧ j < a.clen + n then s.mem.read (s.cur.offset.toNat + (j - a.clen)) else a.cdb.getD j 0) ∧
        exec (.ataDataWrite w count) s = .next { s with ata := { a with cdb := cdb, clen := a.clen + n } }))

/-- 44_ata.md R351, R354, 30_encoding.md R145: the twelfth CDB byte runs the CDB in the same step, from BSY set, DRQ clear and the CDB
phase over; an opcode other than 0x28 and 0x00 is F05. -/
def Obligations.AtaCdbRuns : Prop :=
  ∀ (w : DataWidth) (count : BitVec 32) (s : State),
    let n := w.size.bytes * count.toNat
    let a := s.ata
    a.status.getLsbD 3 = true → a.tag = .cdbIncoming → a.clen + n = 12 → a.cdb.length = 12 →
    ∃ cdb : List Byte, cdb.length = 12 ∧
      (∀ j, j < 12 → cdb.getD j 0 =
        if a.clen ≤ j then s.mem.read (s.cur.offset.toNat + (j - a.clen)) else a.cdb.getD j 0) ∧
      (let t : State := { s with ata := { a with
          cdb := cdb, clen := 0, tag := .none, status := (a.status &&& 0xF7) ||| 0x80 } }
       let lba : Nat := (cdb.getD 2 0).toNat * 2 ^ 24 + (cdb.getD 3 0).toNat * 2 ^ 16 + (cdb.getD 4 0).toNat * 2 ^ 8 + (cdb.getD 5 0).toNat
       let cnt : Nat := (cdb.getD 7 0).toNat * 2 ^ 8 + (cdb.getD 8 0).toNat
       (cdb.getD 0 0 = 0x28 →
         (lba * 2048 + cnt * 2048 ≤ s.params.cdSize → s.params.ataBufCap < cnt * 2048 →
           exec (.ataDataWrite w count) s = .next (raiseFatal .capacityExceeded s)) ∧
         (s.params.cdSize < lba * 2048 + cnt * 2048 ∨ cnt * 2048 ≤ s.params.ataBufCap →
           exec (.ataDataWrite w count) s = exec (.cdbRead10 (BitVec.ofNat 32 lba) (BitVec.ofNat 16 cnt)) t)) ∧
       (cdb.getD 0 0 = 0x00 → exec (.ataDataWrite w count) s = exec .cdbTestUnitReady t) ∧
       (cdb.getD 0 0 ≠ 0x28 → cdb.getD 0 0 ≠ 0x00 →
         exec (.ataDataWrite w count) s = .next (raiseFatal .unrecognizedCommand s)))

/-- 44_ata.md R352, R353, R330: the range check in exact arithmetic, then the capacity check, then the transfer from the image. -/
def Obligations.AtaCdbCommands : Prop :=
  (∀ (lba : BitVec 32) (cnt : BitVec 16) (s : State),
    let a := s.ata
    let first := lba.toNat * 2048
    let n := cnt.toNat * 2048
    (s.params.cdSize < first + n → exec (.cdbRead10 lba cnt) s =
      .next { s with ata := { a with status := (a.status ||| 0x01) &&& 0x77, error := 0x04 } }) ∧
    (first + n ≤ s.params.cdSize →
      (s.params.ataBufCap < n → exec (.cdbRead10 lba cnt) s = .next (raiseFatal .capacityExceeded s)) ∧
      (cnt = 0 → exec (.cdbRead10 lba cnt) s =
        .next { s with ata := { a with dsize := 0, dread := 0, status := a.status &&& 0x7F } }) ∧
      (cnt ≠ 0 → n ≤ s.params.ataBufCap → a.dbuf.length = s.params.ataBufCap → s.params.cdImage.length = s.params.cdSize →
        ∃ dbuf : List Byte, dbuf.length = a.dbuf.length ∧
          (∀ j, dbuf.getD j 0 = if j < n then s.params.cdImage.getD (first + j) 0 else a.dbuf.getD j 0) ∧
          exec (.cdbRead10 lba cnt) s = .next { s with ata := { a with
            dbuf := dbuf, dsize := n, dread := 0, status := (a.status &&& 0x7F) ||| 0x08 } }))) ∧
  (∀ s : State, exec .cdbTestUnitReady s = .next { s with ata := { s.ata with status := s.ata.status &&& 0x7F } })

/-- 44_ata.md R335: the worker's step fills 512 bytes from the unit in the tag, whatever drive/head says by then; its contents are the
parameter of R6. With no worker the model's step changes nothing (log 2). -/
def Obligations.AtaIdentifyDone : Prop :=
  ∀ s : State,
    let a := s.ata
    (∀ u : AtaUnit, a.tag = .identify u → 512 ≤ a.dbuf.length →
      ∃ dbuf : List Byte, dbuf.length = a.dbuf.length ∧
        (∀ j, dbuf.getD j 0 =
          if j < 512 then Config.identifyByte u (match u with | .atapi => s.params.cdSize | .disk => s.params.hdSize) j
          else a.dbuf.getD j 0) ∧
        exec .ataIdentifyDone s = .next { s with ata := { a with
          dbuf := dbuf, dsize := 512, dread := 0, status := (a.status &&& 0x7F) ||| 0x08, tag := .none } }) ∧
    ((∀ u : AtaUnit, a.tag ≠ .identify u) → exec .ataIdentifyDone s = .next s)

/-- 44_ata.md R360: the request is clamped to the bytes left; those bytes go out in order, and no other host byte is written; the last
one clears DRQ and empties the buffer. F07 when there is no data. That the host bytes past a clamped read stay (decision D44) and that
the size returns to 0 (decision D66) is the spec's own choice. -/
def Obligations.AtaDataRead : Prop :=
  ∀ (w : DataWidth) (count : BitVec 32) (s : State),
    let n := w.size.bytes * count.toNat
    let a := s.ata
    (a.status.getLsbD 3 = false ∨ a.tag ≠ .none ∨ a.dread = a.dsize →
      exec (.ataDataRead w count) s = .next (raiseFatal .readPastData s)) ∧
    (a.status.getLsbD 3 = true → a.tag = .none → a.dread < a.dsize → a.dsize ≤ a.dbuf.length → s.mem.wf = true →
      ∃ bs : List Byte, bs.length = min n (a.dsize - a.dread) ∧ (∀ j, j < bs.length → bs.getD j 0 = a.dbuf.getD (a.dread + j) 0) ∧
        Completes (exec (.ataDataRead w count) s)
          { s with ata :=
            if n < a.dsize - a.dread then { a with dread := a.dread + n }
            else { a with dread := 0, dsize := 0, status := a.status &&& 0xF7 } } bs)

/-- 44_ata.md R361: a falling edge of SRST resets the channel, and is F11 while an IDENTIFY is in flight; any other write only stores
the byte. The F11 is the spec's own choice: the source leaves that race undefined (R361, decision D46). -/
def Obligations.AtaDeviceControl : Prop :=
  ∀ (b : Byte) (s : State),
    let a := s.ata
    (a.devctl.getLsbD 2 = true → b.getLsbD 2 = false →
      ((∃ u, a.tag = .identify u) → exec (.ataDevctl b) s = .next (raiseFatal .busy s)) ∧
      ((∀ u, a.tag ≠ .identify u) → exec (.ataDevctl b) s = .next { s with ata := { a with
        status := 0x40, lba0 := 0, lba1 := 0, lba2 := 0, dbuf := List.replicate a.dbuf.length 0, dsize := 0, dread := 0,
        tag := .none, clen := 0, devctl := b } })) ∧
    (a.devctl.getLsbD 2 = false ∨ b.getLsbD 2 = true → exec (.ataDevctl b) s = .next { s with ata := { a with devctl := b } })

/-! ## DMA, PCI and CMOS -/

/-- 45_dma.md R381, R382, R383: what each write does, and that every byte on its port is that write, bits 7:3 of a mask byte and the
whole byte of a master reset choosing nothing. The ports are the spec's general knowledge (R380). -/
def Obligations.DmaWrites : Prop :=
  ∀ (k : DmaUnit) (b : Byte) (i : BitVec 2) (off : BitVec 64) (rest : List Input) (s : State),
    let d := s.dma k
    let run (port : BitVec 16) (x : Instr) : Prop :=
      Awaits s (outByte port off b) rest → step s = exec x (deliver s (outByte port off b) rest)
    run (match k with | .slave => 0x0B | .master => 0xD6) (.dmaMode k b) ∧
    run (match k with | .slave => 0x0A | .master => 0xD4) (.dmaSingleMask k (b.getLsbD 2) (b.setWidth 2)) ∧
    run (match k with | .slave => 0x0D | .master => 0xDA) (.dmaMasterReset k) ∧
    exec (.dmaMode k b) s = .next (s.setDma k { d with mode := b }) ∧
    exec (.dmaMasterReset k) s = .next (s.setDma k { d with flipflop := false, status := 0, mask := 0x0F }) ∧
    (∃ m : Byte, exec (.dmaSingleMask k true i) s = .next (s.setDma k { d with mask := m }) ∧
      ∀ j, j < 8 → m.getLsbD j = (d.mask.getLsbD j || decide (j = i.toNat) || (decide (k = .master ∧ i = 0) && decide (j < 4)))) ∧
    (∃ m : Byte, exec (.dmaSingleMask k false i) s = .next (s.setDma k { d with mask := m }) ∧
      ∀ j, j < 8 → m.getLsbD j = (d.mask.getLsbD j && decide (j ≠ i.toNat) && decide (j < 4)))

/-- 46_pci.md R397, R398, 20_memory.md R100. -/
def Obligations.PciAddress : Prop :=
  ∀ (v : Word) (s : State),
    exec (.pciAddrWrite v) s = .next { s with pci := { s.pci with
      addr := v
      curIndex := v.toNat / 2 ^ 16 % 256 * 32 + v.toNat / 2 ^ 11 % 32 * 8 + v.toNat / 2 ^ 8 % 8
      curReg := BitVec.ofNat 6 (v.toNat / 4) } } ∧
    (s.mem.wf = true → Completes (exec .pciAddrRead s) s
      [BitVec.ofNat 8 s.pci.addr.toNat, BitVec.ofNat 8 (s.pci.addr.toNat / 2 ^ 8), BitVec.ofNat 8 (s.pci.addr.toNat / 2 ^ 16),
        BitVec.ofNat 8 (s.pci.addr.toNat / 2 ^ 24)])

/-- 46_pci.md R399, R400, R401, R402: bytes move in increasing offset order within one block, every byte is writable, and an access
past the blocks or past byte 255 is F10. That a write has no side effect is the spec's own choice (R401, decision D54). -/
def Obligations.PciData : Prop :=
  ∀ (size : Size) (lane : BitVec 2) (v : Word) (s : State),
    let n := size.bytes
    let off := s.pci.curReg.toNat * 4 + lane.toNat
    let block := s.pci.blocks.getD s.pci.curIndex []
    (s.params.pciNumBlocks ≤ s.pci.curIndex ∨ 256 < off + n →
      exec (.pciDataRead size lane) s = .next (raiseFatal .outOfRange s) ∧
      exec (.pciDataWrite size lane v) s = .next (raiseFatal .outOfRange s)) ∧
    (s.pci.curIndex < s.params.pciNumBlocks → off + n ≤ 256 →
      (s.mem.wf = true → ∃ bs : List Byte, bs.length = n ∧ (∀ j, j < n → bs.getD j 0 = block.getD (off + j) 0) ∧
        Completes (exec (.pciDataRead size lane) s) s bs) ∧
      (block.length = 256 → ∃ new : List Byte, new.length = 256 ∧
        (∀ j, new.getD j 0 = if off ≤ j ∧ j < off + n then BitVec.ofNat 8 (v.toNat / 256 ^ (j - off)) else block.getD j 0) ∧
        exec (.pciDataWrite size lane v) s =
          .next { s with pci := { s.pci with blocks := s.pci.blocks.set s.pci.curIndex new } }))

/-- 47_cmos.md R411, R412, R413: bit 7 of an index write is the NMI flag; a write changes the one register under the index, which then
reads so. That no access has another effect is the spec's own choice (R411, R412, decision D55). -/
def Obligations.CmosAccess : Prop :=
  ∀ (b : Byte) (s : State), s.cmos.regs.length = 128 →
    let i := s.cmos.idx.toNat
    exec (.cmosIndex b) s = .next { s with cmos := { s.cmos with
      idx := BitVec.ofNat 7 (b.toNat % 128), nmiDis := decide (128 ≤ b.toNat) } } ∧
    (s.mem.wf = true → Completes (exec .cmosDataRead s) s [s.cmos.regs.getD i 0]) ∧
    ∃ regs : List Byte, regs.length = 128 ∧ (∀ j, regs.getD j 0 = if j = i then b else s.cmos.regs.getD j 0) ∧
      exec (.cmosDataWrite b) s = .next { s with cmos := { s.cmos with regs := regs } }

end Statements
end

