-- ==== Sys2Proof/Laws/Bits.lean ====
section
/-! SUPPORT. Single bits of a byte by level, and the priority order: what `setLevel`, `clearLevel` and `firstIn` do. -/

namespace Sys2Proof.Machine

theorem levelBit_getLsbD (l : BitVec 3) (i : Nat) : (levelBit l).getLsbD i = decide (i = l.toNat) := by
  have hl := l.isLt
  unfold levelBit
  rw [BitVec.getLsbD_shiftLeft, BitVec.getLsbD_one]
  by_cases h : i = l.toNat
  · subst h; simp; omega
  · simp [h]; omega

theorem toNat_eq_iff (x l : BitVec 3) : x.toNat = l.toNat ↔ x = l := ⟨BitVec.eq_of_toNat_eq, fun h => h ▸ rfl⟩

theorem bitWritten_setLevel (v : Byte) (l : BitVec 3) : BitWritten v l true (setLevel v l) := by
  intro x
  rw [setLevel, BitVec.getLsbD_or, levelBit_getLsbD, ]
  by_cases h : x = l
  · subst h; simp
  · have : ¬ x.toNat = l.toNat := fun e => h ((toNat_eq_iff _ _).1 e)
    simp [h, this]

theorem bitWritten_clearLevel (v : Byte) (l : BitVec 3) : BitWritten v l false (clearLevel v l) := by
  intro x
  have := x.isLt
  rw [clearLevel, BitVec.getLsbD_and, BitVec.getLsbD_not, levelBit_getLsbD]
  by_cases h : x = l
  · subst h; simp
  · have : ¬ x.toNat = l.toNat := fun e => h ((toNat_eq_iff _ _).1 e)
    simp [h, this]; omega

theorem byte_ext {v w : Byte} (h : ∀ x : BitVec 3, v.getLsbD x.toNat = w.getLsbD x.toNat) : v = w := by
  apply BitVec.eq_of_getLsbD_eq
  intro i hi
  have := h (BitVec.ofNat 3 i)
  rwa [BitVec.toNat_ofNat, Nat.mod_eq_of_lt (by omega)] at this

theorem byte_eq_zero_iff (v : Byte) : v = 0 ↔ ∀ x : BitVec 3, v.getLsbD x.toNat = false := by
  constructor
  · rintro rfl x; simp
  · intro h; apply byte_ext; simpa using h

theorem mem_priorityOrder : ∀ p x : BitVec 3, x ∈ priorityOrder p := by decide

theorem priorityOrder_rank : ∀ p : BitVec 3, (priorityOrder p).Pairwise (fun a b => rank p a < rank p b) := by decide

theorem firstIn_none (p : BitVec 3) (v : Byte) : firstIn p v = none ↔ v = 0 := by
  rw [byte_eq_zero_iff, firstIn, List.find?_eq_none]
  simp [mem_priorityOrder]

theorem find?_pairwise {α : Type} {r : α → α → Prop} {q : α → Bool} {l : List α} (hl : l.Pairwise r) {a : α} (h : l.find? q = some a) :
    q a = true ∧ ∀ x ∈ l, q x = true → x = a ∨ r a x := by
  induction l with
  | nil => simp at h
  | cons b bs ih =>
    rw [List.pairwise_cons] at hl
    rw [List.find?_cons] at h
    split at h
    · next hb => cases h; exact ⟨hb, fun x hx _ => (List.mem_cons.1 hx).imp id (hl.1 x)⟩
    · next hb =>
      obtain ⟨h1, h2⟩ := ih hl.2 h
      refine ⟨h1, fun x hx hq => ?_⟩
      rcases List.mem_cons.1 hx with rfl | hx
      · simp [hq] at hb
      · exact h2 x hx hq

theorem firstIn_isFirst {p : BitVec 3} {v : Byte} {l : BitVec 3} (h : firstIn p v = some l) : IsFirst p v l := by
  obtain ⟨h1, h2⟩ := find?_pairwise (priorityOrder_rank p) h
  refine ⟨h1, fun x hx => ?_⟩
  rcases h2 x (mem_priorityOrder p x) hx with rfl | h
  · exact le_rfl
  · exact h.le

theorem firstIn_some {p : BitVec 3} {v : Byte} (h : v ≠ 0) : ∃ l, firstIn p v = some l ∧ IsFirst p v l := by
  cases hf : firstIn p v with
  | none => exact absurd ((firstIn_none _ _).1 hf) h
  | some l => exact ⟨l, rfl, firstIn_isFirst hf⟩

end Sys2Proof.Machine
end

