-- ==== Sys2Proof/Laws/State.lean ====
section
/-! SUPPORT. One lemma a field for every update of the state that the meanings make, so that no proof unfolds a record update. -/

namespace Sys2Proof.Machine

/-! ## `setPic` -/

@[simp] theorem State.setPic_ports (s : State) (u : PicUnit) (p : Pic) : (s.setPic u p).ports = s.ports := by cases u <;> rfl
@[simp] theorem State.setPic_pit0 (s : State) (u : PicUnit) (p : Pic) : (s.setPic u p).pit0 = s.pit0 := by cases u <;> rfl
@[simp] theorem State.setPic_pit1 (s : State) (u : PicUnit) (p : Pic) : (s.setPic u p).pit1 = s.pit1 := by cases u <;> rfl
@[simp] theorem State.setPic_pit2 (s : State) (u : PicUnit) (p : Pic) : (s.setPic u p).pit2 = s.pit2 := by cases u <;> rfl
@[simp] theorem State.setPic_kbc (s : State) (u : PicUnit) (p : Pic) : (s.setPic u p).kbc = s.kbc := by cases u <;> rfl
@[simp] theorem State.setPic_ata (s : State) (u : PicUnit) (p : Pic) : (s.setPic u p).ata = s.ata := by cases u <;> rfl
@[simp] theorem State.setPic_dma0 (s : State) (u : PicUnit) (p : Pic) : (s.setPic u p).dma0 = s.dma0 := by cases u <;> rfl
@[simp] theorem State.setPic_dma1 (s : State) (u : PicUnit) (p : Pic) : (s.setPic u p).dma1 = s.dma1 := by cases u <;> rfl
@[simp] theorem State.setPic_pci (s : State) (u : PicUnit) (p : Pic) : (s.setPic u p).pci = s.pci := by cases u <;> rfl
@[simp] theorem State.setPic_cmos (s : State) (u : PicUnit) (p : Pic) : (s.setPic u p).cmos = s.cmos := by cases u <;> rfl
@[simp] theorem State.setPic_fatal (s : State) (u : PicUnit) (p : Pic) : (s.setPic u p).fatal = s.fatal := by cases u <;> rfl
@[simp] theorem State.setPic_events (s : State) (u : PicUnit) (p : Pic) : (s.setPic u p).events = s.events := by cases u <;> rfl
@[simp] theorem State.setPic_mem (s : State) (u : PicUnit) (p : Pic) : (s.setPic u p).mem = s.mem := by cases u <;> rfl
@[simp] theorem State.setPic_cur (s : State) (u : PicUnit) (p : Pic) : (s.setPic u p).cur = s.cur := by cases u <;> rfl
@[simp] theorem State.setPic_params (s : State) (u : PicUnit) (p : Pic) : (s.setPic u p).params = s.params := by cases u <;> rfl
@[simp] theorem State.setPic_inputs (s : State) (u : PicUnit) (p : Pic) : (s.setPic u p).inputs = s.inputs := by cases u <;> rfl
@[simp] theorem State.setPic_draws (s : State) (u : PicUnit) (p : Pic) : (s.setPic u p).draws = s.draws := by cases u <;> rfl
@[simp] theorem State.setPic_hostAnswer (s : State) (u : PicUnit) (p : Pic) : (s.setPic u p).hostAnswer = s.hostAnswer := by cases u <;> rfl

@[simp] theorem State.setPic_pic (s : State) (u : PicUnit) (p : Pic) : (s.setPic u p).pic u = p := by cases u <;> rfl
theorem State.setPic_pic_other (s : State) (u v : PicUnit) (p : Pic) (h : v ≠ u) : (s.setPic u p).pic v = s.pic v := by
  cases u <;> cases v <;> simp_all [State.setPic, State.pic]
@[simp] theorem State.setPic_pit (s : State) (u : PicUnit) (p : Pic) (c : PitChan) : (s.setPic u p).pit c = s.pit c := by
  cases u <;> rfl
@[simp] theorem State.setPic_dma (s : State) (u : PicUnit) (p : Pic) (k : DmaUnit) : (s.setPic u p).dma k = s.dma k := by
  cases u <;> rfl
@[simp] theorem State.setPic_primary_pic0 (s : State) (p : Pic) : (s.setPic .primary p).pic0 = p := rfl
@[simp] theorem State.setPic_primary_pic1 (s : State) (p : Pic) : (s.setPic .primary p).pic1 = s.pic1 := rfl
@[simp] theorem State.setPic_secondary_pic0 (s : State) (p : Pic) : (s.setPic .secondary p).pic0 = s.pic0 := rfl
@[simp] theorem State.setPic_secondary_pic1 (s : State) (p : Pic) : (s.setPic .secondary p).pic1 = p := rfl
@[simp] theorem State.pic_primary (s : State) : s.pic .primary = s.pic0 := rfl
@[simp] theorem State.pic_secondary (s : State) : s.pic .secondary = s.pic1 := rfl
@[simp] theorem State.setPic_self (s : State) (u : PicUnit) : s.setPic u (s.pic u) = s := by cases u <;> rfl
@[simp] theorem State.setPic_base (s : State) (u : PicUnit) (p : Pic) : (s.setPic u p).base = s.base := by cases u <;> rfl

/-! ## `setPit` -/

@[simp] theorem State.setPit_ports (s : State) (c : PitChan) (p : Pit) : (s.setPit c p).ports = s.ports := by cases c <;> rfl
@[simp] theorem State.setPit_pic0 (s : State) (c : PitChan) (p : Pit) : (s.setPit c p).pic0 = s.pic0 := by cases c <;> rfl
@[simp] theorem State.setPit_pic1 (s : State) (c : PitChan) (p : Pit) : (s.setPit c p).pic1 = s.pic1 := by cases c <;> rfl
@[simp] theorem State.setPit_kbc (s : State) (c : PitChan) (p : Pit) : (s.setPit c p).kbc = s.kbc := by cases c <;> rfl
@[simp] theorem State.setPit_ata (s : State) (c : PitChan) (p : Pit) : (s.setPit c p).ata = s.ata := by cases c <;> rfl
@[simp] theorem State.setPit_dma0 (s : State) (c : PitChan) (p : Pit) : (s.setPit c p).dma0 = s.dma0 := by cases c <;> rfl
@[simp] theorem State.setPit_dma1 (s : State) (c : PitChan) (p : Pit) : (s.setPit c p).dma1 = s.dma1 := by cases c <;> rfl
@[simp] theorem State.setPit_pci (s : State) (c : PitChan) (p : Pit) : (s.setPit c p).pci = s.pci := by cases c <;> rfl
@[simp] theorem State.setPit_cmos (s : State) (c : PitChan) (p : Pit) : (s.setPit c p).cmos = s.cmos := by cases c <;> rfl
@[simp] theorem State.setPit_fatal (s : State) (c : PitChan) (p : Pit) : (s.setPit c p).fatal = s.fatal := by cases c <;> rfl
@[simp] theorem State.setPit_events (s : State) (c : PitChan) (p : Pit) : (s.setPit c p).events = s.events := by cases c <;> rfl
@[simp] theorem State.setPit_mem (s : State) (c : PitChan) (p : Pit) : (s.setPit c p).mem = s.mem := by cases c <;> rfl
@[simp] theorem State.setPit_cur (s : State) (c : PitChan) (p : Pit) : (s.setPit c p).cur = s.cur := by cases c <;> rfl
@[simp] theorem State.setPit_params (s : State) (c : PitChan) (p : Pit) : (s.setPit c p).params = s.params := by cases c <;> rfl
@[simp] theorem State.setPit_inputs (s : State) (c : PitChan) (p : Pit) : (s.setPit c p).inputs = s.inputs := by cases c <;> rfl
@[simp] theorem State.setPit_draws (s : State) (c : PitChan) (p : Pit) : (s.setPit c p).draws = s.draws := by cases c <;> rfl
@[simp] theorem State.setPit_hostAnswer (s : State) (c : PitChan) (p : Pit) : (s.setPit c p).hostAnswer = s.hostAnswer := by cases c <;> rfl

@[simp] theorem State.setPit_pit (s : State) (c : PitChan) (p : Pit) : (s.setPit c p).pit c = p := by cases c <;> rfl
theorem State.setPit_pit_other (s : State) (c d : PitChan) (p : Pit) (h : d ≠ c) : (s.setPit c p).pit d = s.pit d := by
  cases c <;> cases d <;> simp_all [State.setPit, State.pit]
@[simp] theorem State.setPit_pic (s : State) (c : PitChan) (p : Pit) (u : PicUnit) : (s.setPit c p).pic u = s.pic u := by
  cases c <;> cases u <;> rfl
@[simp] theorem State.setPit_self (s : State) (c : PitChan) : s.setPit c (s.pit c) = s := by cases c <;> rfl
@[simp] theorem State.setPit_setPit (s : State) (c : PitChan) (p q : Pit) : (s.setPit c p).setPit c q = s.setPit c q := by
  cases c <;> rfl
@[simp] theorem State.setPit_base (s : State) (c : PitChan) (p : Pit) : (s.setPit c p).base = s.base := by cases c <;> rfl

/-! ## `setDma` -/

@[simp] theorem State.setDma_ports (s : State) (k : DmaUnit) (d : Dma) : (s.setDma k d).ports = s.ports := by cases k <;> rfl
@[simp] theorem State.setDma_pic0 (s : State) (k : DmaUnit) (d : Dma) : (s.setDma k d).pic0 = s.pic0 := by cases k <;> rfl
@[simp] theorem State.setDma_pic1 (s : State) (k : DmaUnit) (d : Dma) : (s.setDma k d).pic1 = s.pic1 := by cases k <;> rfl
@[simp] theorem State.setDma_pit0 (s : State) (k : DmaUnit) (d : Dma) : (s.setDma k d).pit0 = s.pit0 := by cases k <;> rfl
@[simp] theorem State.setDma_pit1 (s : State) (k : DmaUnit) (d : Dma) : (s.setDma k d).pit1 = s.pit1 := by cases k <;> rfl
@[simp] theorem State.setDma_pit2 (s : State) (k : DmaUnit) (d : Dma) : (s.setDma k d).pit2 = s.pit2 := by cases k <;> rfl
@[simp] theorem State.setDma_kbc (s : State) (k : DmaUnit) (d : Dma) : (s.setDma k d).kbc = s.kbc := by cases k <;> rfl
@[simp] theorem State.setDma_ata (s : State) (k : DmaUnit) (d : Dma) : (s.setDma k d).ata = s.ata := by cases k <;> rfl
@[simp] theorem State.setDma_pci (s : State) (k : DmaUnit) (d : Dma) : (s.setDma k d).pci = s.pci := by cases k <;> rfl
@[simp] theorem State.setDma_cmos (s : State) (k : DmaUnit) (d : Dma) : (s.setDma k d).cmos = s.cmos := by cases k <;> rfl
@[simp] theorem State.setDma_fatal (s : State) (k : DmaUnit) (d : Dma) : (s.setDma k d).fatal = s.fatal := by cases k <;> rfl
@[simp] theorem State.setDma_events (s : State) (k : DmaUnit) (d : Dma) : (s.setDma k d).events = s.events := by cases k <;> rfl
@[simp] theorem State.setDma_mem (s : State) (k : DmaUnit) (d : Dma) : (s.setDma k d).mem = s.mem := by cases k <;> rfl
@[simp] theorem State.setDma_cur (s : State) (k : DmaUnit) (d : Dma) : (s.setDma k d).cur = s.cur := by cases k <;> rfl
@[simp] theorem State.setDma_params (s : State) (k : DmaUnit) (d : Dma) : (s.setDma k d).params = s.params := by cases k <;> rfl
@[simp] theorem State.setDma_inputs (s : State) (k : DmaUnit) (d : Dma) : (s.setDma k d).inputs = s.inputs := by cases k <;> rfl
@[simp] theorem State.setDma_draws (s : State) (k : DmaUnit) (d : Dma) : (s.setDma k d).draws = s.draws := by cases k <;> rfl
@[simp] theorem State.setDma_hostAnswer (s : State) (k : DmaUnit) (d : Dma) : (s.setDma k d).hostAnswer = s.hostAnswer := by cases k <;> rfl

@[simp] theorem State.setDma_dma (s : State) (k : DmaUnit) (d : Dma) : (s.setDma k d).dma k = d := by cases k <;> rfl
theorem State.setDma_dma_other (s : State) (k j : DmaUnit) (d : Dma) (h : j ≠ k) : (s.setDma k d).dma j = s.dma j := by
  cases k <;> cases j <;> simp_all [State.setDma, State.dma]

/-! ## `reply` -/

@[simp] theorem State.reply_ports (s : State) (bs : List Byte) : (s.reply bs).ports = s.ports := rfl
@[simp] theorem State.reply_pic0 (s : State) (bs : List Byte) : (s.reply bs).pic0 = s.pic0 := rfl
@[simp] theorem State.reply_pic1 (s : State) (bs : List Byte) : (s.reply bs).pic1 = s.pic1 := rfl
@[simp] theorem State.reply_pit0 (s : State) (bs : List Byte) : (s.reply bs).pit0 = s.pit0 := rfl
@[simp] theorem State.reply_pit1 (s : State) (bs : List Byte) : (s.reply bs).pit1 = s.pit1 := rfl
@[simp] theorem State.reply_pit2 (s : State) (bs : List Byte) : (s.reply bs).pit2 = s.pit2 := rfl
@[simp] theorem State.reply_kbc (s : State) (bs : List Byte) : (s.reply bs).kbc = s.kbc := rfl
@[simp] theorem State.reply_ata (s : State) (bs : List Byte) : (s.reply bs).ata = s.ata := rfl
@[simp] theorem State.reply_dma0 (s : State) (bs : List Byte) : (s.reply bs).dma0 = s.dma0 := rfl
@[simp] theorem State.reply_dma1 (s : State) (bs : List Byte) : (s.reply bs).dma1 = s.dma1 := rfl
@[simp] theorem State.reply_pci (s : State) (bs : List Byte) : (s.reply bs).pci = s.pci := rfl
@[simp] theorem State.reply_cmos (s : State) (bs : List Byte) : (s.reply bs).cmos = s.cmos := rfl
@[simp] theorem State.reply_fatal (s : State) (bs : List Byte) : (s.reply bs).fatal = s.fatal := rfl
@[simp] theorem State.reply_events (s : State) (bs : List Byte) : (s.reply bs).events = s.events := rfl
@[simp] theorem State.reply_cur (s : State) (bs : List Byte) : (s.reply bs).cur = s.cur := rfl
@[simp] theorem State.reply_params (s : State) (bs : List Byte) : (s.reply bs).params = s.params := rfl
@[simp] theorem State.reply_inputs (s : State) (bs : List Byte) : (s.reply bs).inputs = s.inputs := rfl
@[simp] theorem State.reply_draws (s : State) (bs : List Byte) : (s.reply bs).draws = s.draws := rfl
@[simp] theorem State.reply_hostAnswer (s : State) (bs : List Byte) : (s.reply bs).hostAnswer = s.hostAnswer := rfl

theorem State.reply_mem (s : State) (bs : List Byte) : (s.reply bs).mem = s.mem.writeBytes s.base bs := rfl
@[simp] theorem State.reply_pic (s : State) (bs : List Byte) (u : PicUnit) : (s.reply bs).pic u = s.pic u := by cases u <;> rfl
@[simp] theorem State.reply_pit (s : State) (bs : List Byte) (c : PitChan) : (s.reply bs).pit c = s.pit c := by cases c <;> rfl
@[simp] theorem State.reply_dma (s : State) (bs : List Byte) (k : DmaUnit) : (s.reply bs).dma k = s.dma k := by cases k <;> rfl
@[simp] theorem State.reply_base (s : State) (bs : List Byte) : (s.reply bs).base = s.base := rfl

/-! ## `recordFatal` and `raiseFatal` -/

@[simp] theorem recordFatal_ports (r : FatalRecord) (s : State) : (recordFatal r s).ports = s.ports := rfl
@[simp] theorem recordFatal_pic0 (r : FatalRecord) (s : State) : (recordFatal r s).pic0 = s.pic0 := rfl
@[simp] theorem recordFatal_pic1 (r : FatalRecord) (s : State) : (recordFatal r s).pic1 = s.pic1 := rfl
@[simp] theorem recordFatal_pit0 (r : FatalRecord) (s : State) : (recordFatal r s).pit0 = s.pit0 := rfl
@[simp] theorem recordFatal_pit1 (r : FatalRecord) (s : State) : (recordFatal r s).pit1 = s.pit1 := rfl
@[simp] theorem recordFatal_pit2 (r : FatalRecord) (s : State) : (recordFatal r s).pit2 = s.pit2 := rfl
@[simp] theorem recordFatal_kbc (r : FatalRecord) (s : State) : (recordFatal r s).kbc = s.kbc := rfl
@[simp] theorem recordFatal_ata (r : FatalRecord) (s : State) : (recordFatal r s).ata = s.ata := rfl
@[simp] theorem recordFatal_dma0 (r : FatalRecord) (s : State) : (recordFatal r s).dma0 = s.dma0 := rfl
@[simp] theorem recordFatal_dma1 (r : FatalRecord) (s : State) : (recordFatal r s).dma1 = s.dma1 := rfl
@[simp] theorem recordFatal_pci (r : FatalRecord) (s : State) : (recordFatal r s).pci = s.pci := rfl
@[simp] theorem recordFatal_cmos (r : FatalRecord) (s : State) : (recordFatal r s).cmos = s.cmos := rfl
@[simp] theorem recordFatal_mem (r : FatalRecord) (s : State) : (recordFatal r s).mem = s.mem := rfl
@[simp] theorem recordFatal_cur (r : FatalRecord) (s : State) : (recordFatal r s).cur = s.cur := rfl
@[simp] theorem recordFatal_params (r : FatalRecord) (s : State) : (recordFatal r s).params = s.params := rfl
@[simp] theorem recordFatal_inputs (r : FatalRecord) (s : State) : (recordFatal r s).inputs = s.inputs := rfl
@[simp] theorem recordFatal_draws (r : FatalRecord) (s : State) : (recordFatal r s).draws = s.draws := rfl
@[simp] theorem recordFatal_hostAnswer (r : FatalRecord) (s : State) : (recordFatal r s).hostAnswer = s.hostAnswer := rfl

@[simp] theorem recordFatal_fatal (r : FatalRecord) (s : State) : (recordFatal r s).fatal = some r := rfl
@[simp] theorem recordFatal_events (r : FatalRecord) (s : State) : (recordFatal r s).events = s.events ++ [.fatal r] := rfl

/-! ## `raiseFatal` -/

@[simp] theorem raiseFatal_ports (x : FatalReason) (s : State) : (raiseFatal x s).ports = s.ports := rfl
@[simp] theorem raiseFatal_pic0 (x : FatalReason) (s : State) : (raiseFatal x s).pic0 = s.pic0 := rfl
@[simp] theorem raiseFatal_pic1 (x : FatalReason) (s : State) : (raiseFatal x s).pic1 = s.pic1 := rfl
@[simp] theorem raiseFatal_pit0 (x : FatalReason) (s : State) : (raiseFatal x s).pit0 = s.pit0 := rfl
@[simp] theorem raiseFatal_pit1 (x : FatalReason) (s : State) : (raiseFatal x s).pit1 = s.pit1 := rfl
@[simp] theorem raiseFatal_pit2 (x : FatalReason) (s : State) : (raiseFatal x s).pit2 = s.pit2 := rfl
@[simp] theorem raiseFatal_kbc (x : FatalReason) (s : State) : (raiseFatal x s).kbc = s.kbc := rfl
@[simp] theorem raiseFatal_ata (x : FatalReason) (s : State) : (raiseFatal x s).ata = s.ata := rfl
@[simp] theorem raiseFatal_dma0 (x : FatalReason) (s : State) : (raiseFatal x s).dma0 = s.dma0 := rfl
@[simp] theorem raiseFatal_dma1 (x : FatalReason) (s : State) : (raiseFatal x s).dma1 = s.dma1 := rfl
@[simp] theorem raiseFatal_pci (x : FatalReason) (s : State) : (raiseFatal x s).pci = s.pci := rfl
@[simp] theorem raiseFatal_cmos (x : FatalReason) (s : State) : (raiseFatal x s).cmos = s.cmos := rfl
@[simp] theorem raiseFatal_mem (x : FatalReason) (s : State) : (raiseFatal x s).mem = s.mem := rfl
@[simp] theorem raiseFatal_cur (x : FatalReason) (s : State) : (raiseFatal x s).cur = s.cur := rfl
@[simp] theorem raiseFatal_params (x : FatalReason) (s : State) : (raiseFatal x s).params = s.params := rfl
@[simp] theorem raiseFatal_inputs (x : FatalReason) (s : State) : (raiseFatal x s).inputs = s.inputs := rfl
@[simp] theorem raiseFatal_draws (x : FatalReason) (s : State) : (raiseFatal x s).draws = s.draws := rfl
@[simp] theorem raiseFatal_hostAnswer (x : FatalReason) (s : State) : (raiseFatal x s).hostAnswer = s.hostAnswer := rfl

@[simp] theorem raiseFatal_fatal (x : FatalReason) (s : State) : (raiseFatal x s).fatal = some (fatalRecord x s) := rfl
@[simp] theorem raiseFatal_events (x : FatalReason) (s : State) :
    (raiseFatal x s).events = s.events ++ [.fatal (fatalRecord x s)] := rfl
@[simp] theorem fatalRecord_reason (x : FatalReason) (s : State) : (fatalRecord x s).reason = x := rfl

/-! ## `raiseWhen` -/

@[simp] theorem raiseWhen_ports (b : Bool) (n : BitVec 4) (s : State) : (raiseWhen b n s).ports = s.ports := rfl
@[simp] theorem raiseWhen_pit0 (b : Bool) (n : BitVec 4) (s : State) : (raiseWhen b n s).pit0 = s.pit0 := rfl
@[simp] theorem raiseWhen_pit1 (b : Bool) (n : BitVec 4) (s : State) : (raiseWhen b n s).pit1 = s.pit1 := rfl
@[simp] theorem raiseWhen_pit2 (b : Bool) (n : BitVec 4) (s : State) : (raiseWhen b n s).pit2 = s.pit2 := rfl
@[simp] theorem raiseWhen_kbc (b : Bool) (n : BitVec 4) (s : State) : (raiseWhen b n s).kbc = s.kbc := rfl
@[simp] theorem raiseWhen_ata (b : Bool) (n : BitVec 4) (s : State) : (raiseWhen b n s).ata = s.ata := rfl
@[simp] theorem raiseWhen_dma0 (b : Bool) (n : BitVec 4) (s : State) : (raiseWhen b n s).dma0 = s.dma0 := rfl
@[simp] theorem raiseWhen_dma1 (b : Bool) (n : BitVec 4) (s : State) : (raiseWhen b n s).dma1 = s.dma1 := rfl
@[simp] theorem raiseWhen_pci (b : Bool) (n : BitVec 4) (s : State) : (raiseWhen b n s).pci = s.pci := rfl
@[simp] theorem raiseWhen_cmos (b : Bool) (n : BitVec 4) (s : State) : (raiseWhen b n s).cmos = s.cmos := rfl
@[simp] theorem raiseWhen_fatal (b : Bool) (n : BitVec 4) (s : State) : (raiseWhen b n s).fatal = s.fatal := rfl
@[simp] theorem raiseWhen_events (b : Bool) (n : BitVec 4) (s : State) : (raiseWhen b n s).events = s.events := rfl
@[simp] theorem raiseWhen_mem (b : Bool) (n : BitVec 4) (s : State) : (raiseWhen b n s).mem = s.mem := rfl
@[simp] theorem raiseWhen_cur (b : Bool) (n : BitVec 4) (s : State) : (raiseWhen b n s).cur = s.cur := rfl
@[simp] theorem raiseWhen_params (b : Bool) (n : BitVec 4) (s : State) : (raiseWhen b n s).params = s.params := rfl
@[simp] theorem raiseWhen_inputs (b : Bool) (n : BitVec 4) (s : State) : (raiseWhen b n s).inputs = s.inputs := rfl
@[simp] theorem raiseWhen_draws (b : Bool) (n : BitVec 4) (s : State) : (raiseWhen b n s).draws = s.draws := rfl
@[simp] theorem raiseWhen_hostAnswer (b : Bool) (n : BitVec 4) (s : State) : (raiseWhen b n s).hostAnswer = s.hostAnswer := rfl

@[simp] theorem raiseWhen_true (n : BitVec 4) (s : State) : raiseWhen true n s = admitIrq n s := by
  unfold raiseWhen admitIrq; cases n.getLsbD 3 <;> rfl
@[simp] theorem raiseWhen_false (n : BitVec 4) (s : State) : raiseWhen false n s = s := rfl

/-! ## `deliver` -/

@[simp] theorem deliver_ports (s : State) (i : Input) (rest : List Input) : (deliver s i rest).ports = s.ports := by cases i <;> rfl
@[simp] theorem deliver_pic0 (s : State) (i : Input) (rest : List Input) : (deliver s i rest).pic0 = s.pic0 := by cases i <;> rfl
@[simp] theorem deliver_pic1 (s : State) (i : Input) (rest : List Input) : (deliver s i rest).pic1 = s.pic1 := by cases i <;> rfl
@[simp] theorem deliver_pit0 (s : State) (i : Input) (rest : List Input) : (deliver s i rest).pit0 = s.pit0 := by cases i <;> rfl
@[simp] theorem deliver_pit1 (s : State) (i : Input) (rest : List Input) : (deliver s i rest).pit1 = s.pit1 := by cases i <;> rfl
@[simp] theorem deliver_pit2 (s : State) (i : Input) (rest : List Input) : (deliver s i rest).pit2 = s.pit2 := by cases i <;> rfl
@[simp] theorem deliver_kbc (s : State) (i : Input) (rest : List Input) : (deliver s i rest).kbc = s.kbc := by cases i <;> rfl
@[simp] theorem deliver_ata (s : State) (i : Input) (rest : List Input) : (deliver s i rest).ata = s.ata := by cases i <;> rfl
@[simp] theorem deliver_dma0 (s : State) (i : Input) (rest : List Input) : (deliver s i rest).dma0 = s.dma0 := by cases i <;> rfl
@[simp] theorem deliver_dma1 (s : State) (i : Input) (rest : List Input) : (deliver s i rest).dma1 = s.dma1 := by cases i <;> rfl
@[simp] theorem deliver_pci (s : State) (i : Input) (rest : List Input) : (deliver s i rest).pci = s.pci := by cases i <;> rfl
@[simp] theorem deliver_cmos (s : State) (i : Input) (rest : List Input) : (deliver s i rest).cmos = s.cmos := by cases i <;> rfl
@[simp] theorem deliver_fatal (s : State) (i : Input) (rest : List Input) : (deliver s i rest).fatal = s.fatal := by cases i <;> rfl
@[simp] theorem deliver_events (s : State) (i : Input) (rest : List Input) : (deliver s i rest).events = s.events := by cases i <;> rfl
@[simp] theorem deliver_params (s : State) (i : Input) (rest : List Input) : (deliver s i rest).params = s.params := by cases i <;> rfl
@[simp] theorem deliver_draws (s : State) (i : Input) (rest : List Input) : (deliver s i rest).draws = s.draws := by cases i <;> rfl
@[simp] theorem deliver_hostAnswer (s : State) (i : Input) (rest : List Input) : (deliver s i rest).hostAnswer = s.hostAnswer := by cases i <;> rfl

@[simp] theorem deliver_inputs (s : State) (i : Input) (rest : List Input) : (deliver s i rest).inputs = rest := by cases i <;> rfl
@[simp] theorem deliver_seq (s : State) (i : Input) (rest : List Input) : (deliver s i rest).seq = s.seq := by cases i <;> rfl

/-! ## `withInputs` -/

@[simp] theorem State.withInputs_ports (s : State) (is : List Input) : (s.withInputs is).ports = s.ports := rfl
@[simp] theorem State.withInputs_pic0 (s : State) (is : List Input) : (s.withInputs is).pic0 = s.pic0 := rfl
@[simp] theorem State.withInputs_pic1 (s : State) (is : List Input) : (s.withInputs is).pic1 = s.pic1 := rfl
@[simp] theorem State.withInputs_pit0 (s : State) (is : List Input) : (s.withInputs is).pit0 = s.pit0 := rfl
@[simp] theorem State.withInputs_pit1 (s : State) (is : List Input) : (s.withInputs is).pit1 = s.pit1 := rfl
@[simp] theorem State.withInputs_pit2 (s : State) (is : List Input) : (s.withInputs is).pit2 = s.pit2 := rfl
@[simp] theorem State.withInputs_kbc (s : State) (is : List Input) : (s.withInputs is).kbc = s.kbc := rfl
@[simp] theorem State.withInputs_ata (s : State) (is : List Input) : (s.withInputs is).ata = s.ata := rfl
@[simp] theorem State.withInputs_dma0 (s : State) (is : List Input) : (s.withInputs is).dma0 = s.dma0 := rfl
@[simp] theorem State.withInputs_dma1 (s : State) (is : List Input) : (s.withInputs is).dma1 = s.dma1 := rfl
@[simp] theorem State.withInputs_pci (s : State) (is : List Input) : (s.withInputs is).pci = s.pci := rfl
@[simp] theorem State.withInputs_cmos (s : State) (is : List Input) : (s.withInputs is).cmos = s.cmos := rfl
@[simp] theorem State.withInputs_fatal (s : State) (is : List Input) : (s.withInputs is).fatal = s.fatal := rfl
@[simp] theorem State.withInputs_events (s : State) (is : List Input) : (s.withInputs is).events = s.events := rfl
@[simp] theorem State.withInputs_mem (s : State) (is : List Input) : (s.withInputs is).mem = s.mem := rfl
@[simp] theorem State.withInputs_cur (s : State) (is : List Input) : (s.withInputs is).cur = s.cur := rfl
@[simp] theorem State.withInputs_params (s : State) (is : List Input) : (s.withInputs is).params = s.params := rfl
@[simp] theorem State.withInputs_draws (s : State) (is : List Input) : (s.withInputs is).draws = s.draws := rfl
@[simp] theorem State.withInputs_hostAnswer (s : State) (is : List Input) : (s.withInputs is).hostAnswer = s.hostAnswer := rfl

end Sys2Proof.Machine
end

