-- ==== Sys2Proof/Laws/Ops.lean ====
section
/-! SUPPORT. What each shared operation can do, said once: arrays, replies, fatal reasons, raises, takes, responses and the ATA status. -/

namespace Sys2Proof.Machine

@[simp] theorem overwrite_length (l : List Byte) (start : Nat) (bs : List Byte) : (overwrite l start bs).length = l.length := by
  simp only [overwrite, List.length_take, List.length_append, List.length_drop]
  omega

theorem overwrite_getElem? (l : List Byte) (start : Nat) (bs : List Byte) (h : start + bs.length ≤ l.length) (j : Nat) :
    (overwrite l start bs)[j]? = if start ≤ j ∧ j < start + bs.length then bs[j - start]? else l[j]? := by
  have hs : (l.take start).length = start := by simp; omega
  rw [overwrite, List.getElem?_take]
  split
  · next hj =>
    by_cases h1 : j < start
    · rw [if_neg (by omega), List.append_assoc, List.getElem?_append_left (by omega), List.getElem?_take, if_pos h1]
    · by_cases h2 : j < start + bs.length
      · rw [if_pos (by omega), List.getElem?_append_left (by simp; omega), List.getElem?_append_right (by omega), hs]
      · rw [if_neg (by omega), List.getElem?_append_right (by simp; omega), List.getElem?_drop]
        congr 1; simp; omega
  · next hj =>
    rw [if_neg (by omega), List.getElem?_eq_none (by omega)]

theorem overwrite_getD (l : List Byte) (start : Nat) (bs : List Byte) (h : start + bs.length ≤ l.length) (j : Nat) :
    (overwrite l start bs).getD j 0 = if start ≤ j ∧ j < start + bs.length then bs.getD (j - start) 0 else l.getD j 0 := by
  simp only [List.getD_eq_getElem?_getD, overwrite_getElem? l start bs h j]
  split <;> rfl

theorem slice_length (l : List Byte) (start n : Nat) : (slice l start n).length = min n (l.length - start) := by
  simp [slice]

theorem slice_getD (l : List Byte) (start n : Nat) {j : Nat} (hj : j < n) : (slice l start n).getD j 0 = l.getD (start + j) 0 := by
  simp [slice, List.getD_eq_getElem?_getD, hj]

theorem readBytes_getD (m : Memory) (a n : Nat) {j : Nat} (hj : j < n) : (m.readBytes a n).getD j 0 = m.read (a + j) := by
  simp [Memory.readBytes, List.getD_eq_getElem?_getD, hj]

theorem answers_reply {s : State} (h : s.mem.wf = true) (bs : List Byte) : Answers s bs (s.reply bs) :=
  ⟨rfl, fun _ hi => Memory.read_writeBytes_same h _ _ hi, fun _ ha => Memory.read_writeBytes_other _ _ _ ha⟩

@[simp] theorem leBytes_length (v : Word) (n : Nat) : (leBytes v n).length = n := by simp [leBytes]

theorem leBytes_getD (v : Word) {n j : Nat} (hj : j < n) : (leBytes v n).getD j 0 = BitVec.ofNat 8 (v.toNat / 256 ^ j) := by
  simp only [leBytes, List.getD_eq_getElem?_getD]
  rw [List.getElem?_map, List.getElem?_range hj]
  apply BitVec.eq_of_toNat_eq
  simp [BitVec.extractLsb'_toNat, Nat.shiftRight_eq_div_pow, Nat.pow_mul]

theorem commit_ok (s t : State) : commit s (.ok t) = .next t := rfl

theorem commit_error (s : State) (x : FatalReason) : commit s (.error x) = .next (raiseFatal x s) := rfl

theorem picCommand_ok {u : PicUnit} {s : State} (h : (s.pic u).init = .icw1) (f : Pic → Pic) :
    picCommand u f s = .ok (s.setPic u (f (s.pic u))) := if_pos h

theorem picCommand_error {u : PicUnit} {s : State} (h : (s.pic u).init ≠ .icw1) (f : Pic → Pic) :
    picCommand u f s = .error .initSequenceViolation := if_neg h

theorem enqueue_ok {s : State} (h : s.kbc.fifo.length ≠ s.params.kbcFifoCap) (b : Byte) : enqueue b s = .ok (enqueued b s) := if_neg h

theorem enqueue_error {s : State} (h : s.kbc.fifo.length = s.params.kbcFifoCap) (b : Byte) : enqueue b s = .error .capacityExceeded := if_pos h

theorem bit0_iff (v : Byte) : (v &&& 0x01 = 0x01) ↔ v.getLsbD 0 = true := by revert v; decide

theorem bit1_iff (v : Byte) : (v &&& 0x02 = 0) ↔ v.getLsbD 1 = false := by revert v; decide

theorem setLevel_one (v : Byte) : setLevel v 1 = v ||| 0x02 := rfl

theorem enqueued_eq (b : Byte) (s : State) : enqueued b s = afterEnqueue b s := by
  unfold enqueued afterEnqueue
  simp only [bit0_iff, bit1_iff]
  cases h : s.kbc.config.getLsbD 0
  · simp only [raiseWhen_false, Bool.false_eq_true, false_and, if_false]
  · simp only [raiseWhen_true, true_and]
    simp only [admitIrq, show (1 : BitVec 4).getLsbD 3 = false from rfl, Bool.false_eq_true, if_false, Pic.admitLevel,
      show BitVec.extractLsb' 0 3 (1 : BitVec 4) = 1 from rfl, setLevel_one, show ((1 : BitVec 3).toNat) = 1 from rfl]
    split <;> rfl

theorem picRaise_error {n : Nat} (h : n > 15) (s : State) : picRaise n s = .error .outOfRange := if_pos h

theorem picRaise_ok {n : Nat} (h : n ≤ 15) (s : State) : picRaise n s = .ok (admitIrq (BitVec.ofNat 4 n) s) := if_neg (by omega)

/-- An admission writes the request bit of its level, if anything. -/
theorem admit_spec (p : Pic) (l : BitVec 3) :
    ∃ v, p.admitLevel l = { p with irr := v } ∧
      BitWritten p.irr l (p.irr.getLsbD l.toNat || (!p.isr.getLsbD l.toNat && !p.imr.getLsbD l.toNat)) v := by
  unfold Pic.admitLevel
  split
  · next h => exact ⟨_, rfl, by rw [h.1, h.2.1, h.2.2]; exact bitWritten_setLevel _ _⟩
  · next h =>
    refine ⟨p.irr, rfl, fun x => ?_⟩
    split
    · next hx =>
      subst hx
      revert h
      cases p.irr.getLsbD x.toNat <;> cases p.isr.getLsbD x.toNat <;> cases p.imr.getLsbD x.toNat <;> simp
    · rfl

theorem admit_admit (p : Pic) (l : BitVec 3) : (p.admitLevel l).admitLevel l = p.admitLevel l := by
  by_cases h : p.irr.getLsbD l.toNat = false ∧ p.isr.getLsbD l.toNat = false ∧ p.imr.getLsbD l.toNat = false
  · have h1 : p.admitLevel l = { p with irr := setLevel p.irr l } := if_pos h
    have h2 := bitWritten_setLevel p.irr l l
    simp only [if_true] at h2
    rw [h1]
    exact if_neg (by simp [h2])
  · have h1 : p.admitLevel l = p := if_neg h
    rw [h1, h1]

/-- An empty take: no unmasked request. -/
theorem take_none {p : Pic} (h : p.irr &&& ~~~ p.imr = 0) : p.take = none := by
  have : firstIn p.prio p.pending = none := (firstIn_none _ _).2 h
  simp [Pic.take, this]

/-- A take: the first unmasked request in priority order is delivered, and put in service unless AEOI is on. -/
theorem take_some {p : Pic} (h : p.irr &&& ~~~ p.imr ≠ 0) :
    ∃ (l : BitVec 3) (v w : Byte), IsFirst p.prio (p.irr &&& ~~~ p.imr) l ∧ BitWritten p.irr l false v ∧
      BitWritten p.isr l (p.isr.getLsbD l.toNat || !p.icw4.getLsbD 1) w ∧
      p.take = some (p.icw2 + l.setWidth 8, { p with
        irr := v
        isr := w
        prio := if p.icw4.getLsbD 1 = true ∧ p.rotAeoi = true then l else p.prio }) := by
  obtain ⟨l, hl, hf⟩ := firstIn_some (p := p.prio) h
  have ht : firstIn p.prio p.pending = some l := hl
  have same : BitWritten p.isr l (p.isr.getLsbD l.toNat) p.isr := by
    intro x
    split
    · next hx => rw [hx]
    · rfl
  cases ha : p.icw4.getLsbD 1
  · refine ⟨l, _, setLevel p.isr l, hf, bitWritten_clearLevel _ _, by simpa using bitWritten_setLevel _ _, ?_⟩
    simp only [Pic.take, ht, ha, if_true, Bool.false_eq_true, false_and, if_false]
  · refine ⟨l, _, p.isr, hf, bitWritten_clearLevel _ _, by simpa using same, ?_⟩
    cases hr : p.rotAeoi <;> simp only [Pic.take, ht, ha, hr, if_true, Bool.false_eq_true, and_false, and_self, if_false, reduceCtorEq]

/-- Every change of status the ATA rules write, as one mask. -/
theorem abort_status (v : Byte) : clearFlag (clearFlag (setFlag v ataErr) ataBsy) ataDrq = (v ||| 0x01) &&& 0x77 := by revert v; decide

theorem accept_abort_status (v : Byte) :
    clearFlag (clearFlag (setFlag (clearFlag v ataErr) ataErr) ataBsy) ataDrq = (v ||| 0x01) &&& 0x77 := by revert v; decide

theorem identify_status (v : Byte) : clearFlag (setFlag (clearFlag v ataErr) ataBsy) ataDrq = (v &&& 0xF6) ||| 0x80 := by
  revert v; decide

theorem packet_status (v : Byte) : clearFlag (setFlag (clearFlag v ataErr) ataDrq) ataBsy = (v &&& 0x7E) ||| 0x08 := by
  revert v; decide

theorem cdb_status (v : Byte) : clearFlag (setFlag v ataBsy) ataDrq = (v &&& 0xF7) ||| 0x80 := by revert v; decide

theorem data_status (v : Byte) : clearFlag (setFlag v ataDrq) ataBsy = (v &&& 0x7F) ||| 0x08 := by revert v; decide

theorem clear_bsy (v : Byte) : clearFlag v ataBsy = v &&& 0x7F := by revert v; decide

theorem clear_drq (v : Byte) : clearFlag v ataDrq = v &&& 0xF7 := by revert v; decide

theorem ataCommand_ok {s : State} (hb : s.ata.status.getLsbD 7 = false) (ht : s.ata.tag = .none) (f : Ata → Ata) :
    ataCommand s f = .ok { s with ata := f s.ata } := if_neg (by simpa [Ata.busy, Ata.bsy, ht] using hb)

theorem ataCommand_error {s : State} (h : s.ata.busy = true) (f : Ata → Ata) : ataCommand s f = .error .busy := if_pos h

end Sys2Proof.Machine
end

