-- ==== Sys2Proof/Laws/Ata.lean ====
section
/-! SUPPORT. What the ATA channel's commands do to it, said once. -/

namespace Sys2Proof.Machine

theorem unit_atapi {a : Ata} (h : a.drvhead.getLsbD 4 = false) : a.unit = .atapi := by simp only [Ata.unit, h]; rfl

theorem unit_disk {a : Ata} (h : a.drvhead.getLsbD 4 = true) : a.unit = .disk := by simp only [Ata.unit, h]; rfl

/-- 44_ata.md R332, R333 as one status mask a case. -/
theorem startIdentify_eq (a : Ata) (u : AtaUnit) : a.startIdentify u = if a.unit = u then
    { a with status := (a.status &&& 0xF6) ||| 0x80, error := 0, tag := .identify u }
    else { a with status := (a.status ||| 0x01) &&& 0x77, error := 0x04 } := by
  have : a.accept.unit = a.unit := rfl
  simp only [Ata.startIdentify, this]
  split
  · simp only [Ata.accept, identify_status]
  · simp only [Ata.accept, Ata.abort, accept_abort_status]; rfl

/-- R334 as one status mask a case. -/
theorem startPacket_eq (a : Ata) : a.startPacket = if a.unit = .atapi then
    { a with status := (a.status &&& 0x7E) ||| 0x08, error := 0, tag := .cdbIncoming, clen := 0 }
    else { a with status := (a.status ||| 0x01) &&& 0x77, error := 0x04 } := by
  have : a.accept.unit = a.unit := rfl
  simp only [Ata.startPacket, this]
  split
  · simp only [Ata.accept, packet_status]
  · simp only [Ata.accept, Ata.abort, accept_abort_status]; rfl

theorem cdb_phase {s : State} (h1 : s.ata.status.getLsbD 3 = true) (h2 : s.ata.tag = .cdbIncoming) :
    ¬ (s.ata.drq = false ∨ s.ata.tag ≠ .cdbIncoming) := by
  rintro (h | h)
  · have : s.ata.drq = true := h1
    simp [this] at h
  · exact h h2

theorem atapiSector_eq : Config.atapiSector = 2048 := rfl

/-- R352 past the medium. -/
theorem read10_abort {lba : BitVec 32} {cnt : BitVec 16} {s : State} (h : s.params.cdSize < lba.toNat * 2048 + cnt.toNat * 2048) :
    cdbRead10 lba cnt s = .ok { s with ata := s.ata.abort } := by
  rw [← atapiSector_eq] at h
  exact if_pos (by omega)

/-- R352 past the buffer. -/
theorem read10_full {lba : BitVec 32} {cnt : BitVec 16} {s : State} (h : lba.toNat * 2048 + cnt.toNat * 2048 ≤ s.params.cdSize)
    (hc : s.params.ataBufCap < cnt.toNat * 2048) : cdbRead10 lba cnt s = .error .capacityExceeded := by
  rw [← atapiSector_eq] at h hc
  exact (if_neg (by omega)).trans (if_pos (by omega))

/-- R352 in range. -/
theorem read10_data {lba : BitVec 32} {cnt : BitVec 16} {s : State} (h : lba.toNat * 2048 + cnt.toNat * 2048 ≤ s.params.cdSize)
    (hc : cnt.toNat * 2048 ≤ s.params.ataBufCap) : cdbRead10 lba cnt s = .ok { s with ata :=
      if cnt = 0 then { s.ata with dsize := 0, dread := 0, status := s.ata.status &&& 0x7F }
      else { s.ata with
        dbuf := overwrite s.ata.dbuf 0 (slice s.params.cdImage (lba.toNat * 2048) (cnt.toNat * 2048))
        dsize := cnt.toNat * 2048
        dread := 0
        status := (s.ata.status &&& 0x7F) ||| 0x08 } } := by
  rw [← atapiSector_eq] at h hc ⊢
  refine (if_neg (by omega)).trans ((if_neg (by omega)).trans ?_)
  split
  · simp only [clear_bsy]
  · simp only [data_status]

theorem be32n (x2 x3 x4 x5 : Byte) : (be32 x2 x3 x4 x5).toNat = x2.toNat * 2 ^ 24 + x3.toNat * 2 ^ 16 + x4.toNat * 2 ^ 8 + x5.toNat := by
  rw [be32, BitVec.toNat_append, BitVec.toNat_append, BitVec.toNat_append]
  rw [← Nat.shiftLeft_add_eq_or_of_lt x3.isLt, ← Nat.shiftLeft_add_eq_or_of_lt x4.isLt, ← Nat.shiftLeft_add_eq_or_of_lt x5.isLt]
  simp only [Nat.shiftLeft_eq]; omega

theorem be16n (x y : Byte) : (be16 x y).toNat = x.toNat * 2 ^ 8 + y.toNat := by
  rw [be16, BitVec.toNat_append, ← Nat.shiftLeft_add_eq_or_of_lt y.isLt]
  simp only [Nat.shiftLeft_eq]

/-- R360: what a read of `n` bytes leaves. -/
theorem advance_eq (a : Ata) (n : Nat) (h : a.dread < a.dsize) : a.advance (min n (a.dsize - a.dread)) =
    if n < a.dsize - a.dread then { a with dread := a.dread + n } else { a with dread := 0, dsize := 0, status := a.status &&& 0xF7 } := by
  unfold Ata.advance
  by_cases h1 : n < a.dsize - a.dread
  · have h2 : ¬ a.dread + min n (a.dsize - a.dread) = a.dsize := by omega
    rw [if_pos h1, if_neg h2, Nat.min_eq_left (by omega)]
  · have h2 : a.dread + min n (a.dsize - a.dread) = a.dsize := by omega
    rw [if_neg h1, if_pos h2]; simp only [clear_drq]

end Sys2Proof.Machine
end

