-- ==== Sys2Proof/Laws/Decode.lean ====
section
/-! SUPPORT. What each family of the decoder can answer. -/

namespace Sys2Proof

/-- The well-formed instructions a port transaction can stand for. -/
def portInstr : Instr → Bool
  | .cdbRead10 _ _ => false
  | .cdbTestUnitReady => false
  | .picTick _ => false
  | .pitTick => false
  | .ataIdentifyDone => false
  | .hostTake _ => false
  | .hostPending _ => false
  | i => i.wf

theorem Size.bytes_le (z : Size) : z.bytes = 1 ∨ z.bytes = 2 ∨ z.bytes = 4 := by cases z <;> simp [Size.bytes]

theorem value_lt (w : Wire) : w.value.toNat < 2 ^ (8 * w.size.bytes) := by
  unfold Wire.value
  cases w.size <;> simp only [Size.bytes]
  · have := (w.imm.extractLsb' 0 8).isLt; simpa using by omega
  · have := (w.imm.extractLsb' 0 16).isLt; simpa using by omega
  · exact w.imm.isLt

theorem accepted_count {w : Wire} (h : accepted w = true) : (w.count != 0) = true := by
  unfold accepted at h
  obtain ⟨r, -, hr⟩ := List.any_eq_true.1 h
  simp only [Bool.and_eq_true] at hr
  have := hr.2
  split at this
  · exact this
  · simp at this; rw [this]; rfl

theorem picCommand_port (u : PicUnit) (b : Byte) : portInstr (decodePicCommand u b) = true := by
  unfold decodePicCommand
  dsimp only
  split
  · next h => exact h
  · next h4 =>
    split
    · next h3 =>
      show (b.getLsbD 3 && !b.getLsbD 4) = true
      rw [h3, Bool.eq_false_iff.2 h4]; rfl
    · split_ifs <;> rfl

theorem pitCommand_port (b : Byte) : portInstr (decodePitCommand b) = true := by
  unfold decodePitCommand
  dsimp only
  split
  · rfl
  · split
    · rfl
    · next h => exact bne_iff_ne.2 h

theorem pic_port {c : SeqState} {u : PicUnit} {p : BitVec 16} {w : Wire} {i : Instr} (h : decodePic c u p w = .ok i) : portInstr i = true := by
  unfold decodePic at h
  split at h
  · split at h
    · cases h; exact picCommand_port _ _
    · cases h
  · split at h
    · split at h
      · cases h; unfold decodePicData; split <;> rfl
      · cases h; rfl
    · cases h

theorem dma_port {k : DmaUnit} {p q r : BitVec 16} {w : Wire} {i : Instr} (h : decodeDma k p q r w = .ok i) : portInstr i = true := by
  unfold decodeDma at h
  split at h
  · cases h
  · split_ifs at h <;> cases h <;> rfl

theorem pitData_port (c : SeqState) (ch : PitChan) (w : Wire) : portInstr (decodePitData c ch w) = true := by
  unfold decodePitData
  split
  · unfold decodePitWrite; split_ifs <;> rfl
  · unfold decodePitRead; split_ifs <;> rfl

theorem pit_port {c : SeqState} {w : Wire} {i : Instr} (h : decodePit c w = .ok i) : portInstr i = true := by
  unfold decodePit at h
  split at h
  · split at h
    · cases h; exact pitCommand_port _
    · cases h
  · split_ifs at h <;> cases h <;> exact pitData_port _ _ _

theorem kbcData_port {c : SeqState} {b : Byte} {i : Instr} (h : decodeKbcData c b = .ok i) : portInstr i = true := by
  unfold decodeKbcData at h
  split at h
  · cases h; rfl
  · cases h; rfl
  · split at h
    · cases h
    · split at h
      · cases h; rfl
      · split_ifs at h <;> cases h <;> rfl

theorem kbcCommand_port {e : KbcExpect} {b : Byte} {i : Instr} (h : decodeKbcCommand e b = .ok i) : portInstr i = true := by
  have key : ∀ b : Byte, ∀ e ∈ [KbcExpect.none, .config, .outport], (decodeKbcCommand e b).toOption.all portInstr = true := by decide
  have := key b e (by cases e <;> decide)
  rw [h] at this; exact this

theorem kbc_port {c : SeqState} {w : Wire} {i : Instr} (h : decodeKbc c w = .ok i) : portInstr i = true := by
  unfold decodeKbc at h
  split at h
  · split at h
    · exact kbcData_port h
    · cases h; rfl
  · split at h
    · split at h
      · exact kbcCommand_port h
      · cases h; rfl
    · cases h

theorem ataCommand_port {y : Bool} {b : Byte} {i : Instr} (h : decodeAtaCommand y b = .ok i) : portInstr i = true := by
  unfold decodeAtaCommand at h
  split_ifs at h <;> cases h <;> rfl

theorem ataData_port {w : Wire} {i : Instr} (hc : (w.count != 0) = true) (h : decodeAtaData w = .ok i) : portInstr i = true := by
  unfold decodeAtaData at h
  split at h <;> cases h <;> exact hc

theorem ata_port {c : SeqState} {w : Wire} {i : Instr} (hc : (w.count != 0) = true) (h : decodeAta c w = .ok i) : portInstr i = true := by
  unfold decodeAta at h
  split at h
  · exact ataData_port hc h
  · split at h
    · split_ifs at h <;> first | exact ataCommand_port h | (cases h <;> rfl)
    · split_ifs at h <;> cases h <;> rfl

theorem pci_port {w : Wire} {i : Instr} (h : decodePci w = .ok i) : portInstr i = true := by
  unfold decodePci at h
  split at h
  · split at h <;> cases h <;> rfl
  · split at h
    · split at h <;> cases h
      · exact decide_eq_true (value_lt w)
      · rfl
    · cases h

theorem cmos_port {w : Wire} {i : Instr} (h : decodeCmos w = .ok i) : portInstr i = true := by
  unfold decodeCmos at h
  split at h
  · split at h <;> cases h <;> rfl
  · split at h
    · split at h <;> cases h <;> rfl
    · cases h

/-- The decoder of port transactions answers nothing else. -/
theorem decodePort_portInstr {c : SeqState} {w : Wire} {i : Instr} (h : decodePort c w = .ok i) : portInstr i = true := by
  unfold decodePort at h
  split at h
  · cases h
  · split at h
    · next hacc =>
      unfold decodeHandler at h
      split at h
      · exact pic_port h
      · exact pic_port h
      · exact pit_port h
      · exact kbc_port h
      · exact ata_port (accepted_count hacc) h
      · cases h
      · exact dma_port h
      · exact dma_port h
      · exact pci_port h
      · exact cmos_port h
    · cases h

end Sys2Proof
end

