-- ==== Sys2Proof/Laws/Step.lean ====
section
/-! SUPPORT. What a step and the decoder of port transactions can answer, said once. -/

namespace Sys2Proof.Machine

/-- `Sel[7:0]` is the host buffer's first byte. -/
theorem wire_byte_payload (s : State) (d : Dir) (z : Size) (p : BitVec 16) (c : BitVec 32) :
    (Wire.mk d z p c s.payloadWord).byte = s.mem.read s.base := by
  simp only [Wire.byte, State.payloadWord]
  apply BitVec.eq_of_getLsbD_eq
  intro i hi
  rw [BitVec.getLsbD_extractLsb', BitVec.getLsbD_append, BitVec.getLsbD_append, BitVec.getLsbD_append]
  simp [hi]

/-- A delivered byte is the byte read back. -/
theorem deliver_outByte_read {s : State} (h : s.mem.wf = true) (port : BitVec 16) (off : BitVec 64) (b : Byte) (rest : List Input) :
    (deliver s (outByte port off b) rest).mem.read (deliver s (outByte port off b) rest).base = b := by
  have := Memory.read_writeBytes_same h off.toNat [b] (i := 0) (by simp)
  exact this

/-- The step runs what the decoder answers. -/
theorem step_ok {s : State} {i : Input} {rest : List Input} (h : Awaits s i rest) {x : Instr}
    (hf : fetchInstr (deliver s i rest) i = .ok x) : step s = exec x (deliver s i rest) := by
  simp only [step, h.alive, h.next_input, hf]

/-- The step of a transaction that stands for no instruction. -/
theorem step_error {s : State} {i : Input} {rest : List Input} (h : Awaits s i rest) {x : FatalReason}
    (hf : fetchInstr (deliver s i rest) i = .error x) : step s = .next (raiseFatal x (deliver s i rest)) := by
  simp only [step, h.alive, h.next_input, hf]

/-- How a one-byte OUT is decoded, in terms of its byte. -/
theorem fetch_out {s : State} {rest : List Input} {port : BitVec 16} {off : BitVec 64} {b : Byte}
   (h : Awaits s (outByte port off b) rest) {hd : Handler} (hh : handlerAt portMap port = some hd)
   (ha : ∀ imm, accepted ⟨.out, .b1, port, 1, imm⟩ = true) :
   ∃ imm, (Wire.mk .out .b1 port 1 imm).byte = b ∧
   fetchInstr (deliver s (outByte port off b) rest) (outByte port off b) = decodeHandler s.seq hd ⟨.out, .b1, port, 1, imm⟩ := by
  refine ⟨(deliver s (outByte port off b) rest).payloadWord, ?_, ?_⟩
  · rw [wire_byte_payload]; exact deliver_outByte_read h.mem_wf port off b rest
  · show decodePort (deliver s (outByte port off b) rest).seq _ = _
    rw [deliver_seq, decodePort]
    have hp : s.seq.ports = portMap := h.ports_fixed
    show (match handlerAt s.seq.ports port with | none => _ | some h => _) = _
    rw [hp, hh]
    show (if accepted _ = true then _ else _) = _
    rw [if_pos (ha _)]

/-- How a one-byte IN is decoded. -/
theorem fetch_in {s : State} {rest : List Input} {port : BitVec 16} {off : BitVec 64} {host : List Byte}
   (h : Awaits s (inByte port off host) rest) {hd : Handler} (hh : handlerAt portMap port = some hd)
   (ha : ∀ imm, accepted ⟨.inp, .b1, port, 1, imm⟩ = true) :
   ∃ imm,
   fetchInstr (deliver s (inByte port off host) rest) (inByte port off host) = decodeHandler s.seq hd ⟨.inp, .b1, port, 1, imm⟩ := by
  refine ⟨(deliver s (inByte port off host) rest).payloadWord, ?_⟩
  · show decodePort (deliver s (inByte port off host) rest).seq _ = _
    rw [deliver_seq, decodePort]
    have hp : s.seq.ports = portMap := h.ports_fixed
    show (match handlerAt s.seq.ports port with | none => _ | some h => _) = _
    rw [hp, hh]
    show (if accepted _ = true then _ else _) = _
    rw [if_pos (ha _)]

/-- A transaction at a claimed port that R166 does not accept is F04, whatever its payload. -/
theorem step_unaccepted {s : State} {d : Descriptor} {host : List Byte} {rest : List Input} (h : Awaits s (.trap d host) rest)
    (hc : handlerAt portMap d.port ≠ none) (ha : ∀ imm, accepted ⟨d.dir, d.size, d.port, d.count, imm⟩ = false) :
    step s = .next (raiseFatal .unmappedAccess (deliver s (.trap d host) rest)) := by
  refine step_error h ?_
  show decodePort (deliver s (.trap d host) rest).seq _ = _
  have hp : s.seq.ports = portMap := h.ports_fixed
  rw [deliver_seq, decodePort]
  show (match handlerAt s.seq.ports d.port with | none => _ | some h => _) = _
  rw [hp]
  cases hh : handlerAt portMap d.port with
  | none => exact absurd hh hc
  | some x =>
    show (if accepted _ = true then _ else _) = _
    rw [if_neg (by rw [ha]; decide)]

/-- All that a step ending in a next state can be. -/
theorem step_cases {s t : State} (h : step s = .next t) : s.fatal = none ∧
   ((s.inputs = [] ∧ t = s) ∨ ∃ i rest, s.inputs = i :: rest ∧
     ((∃ x, fetchInstr (deliver s i rest) i = .ok x ∧ exec x (deliver s i rest) = .next t) ∨
      (∃ r, fetchInstr (deliver s i rest) i = .error r ∧ t = raiseFatal r (deliver s i rest)))) := by
  unfold step at h
  split at h
  · cases h
  · next hf =>
    refine ⟨hf, ?_⟩
    split at h
    · next hi => cases h; exact .inl ⟨hi, rfl⟩
    · next i rest hi =>
      refine .inr ⟨i, rest, hi, ?_⟩
      split at h
      · next x hx => exact .inl ⟨x, hx, h⟩
      · next r hr => cases h; exact .inr ⟨r, hr, rfl⟩

end Sys2Proof.Machine
end

