-- ==== Sys2Proof/Laws/Inv.lean ====
section
/-! SUPPORT. Which shared operations keep the invariants of Safety.lean. -/

namespace Sys2Proof.Machine

theorem clear_and (v w : Byte) (h : v &&& w = 0) (l : BitVec 3) : v &&& clearLevel w l = 0 ∧ clearLevel v l &&& w = 0 := by
  rw [byte_eq_zero_iff] at h
  rw [byte_eq_zero_iff, byte_eq_zero_iff]
  refine ⟨fun x => ?_, fun x => ?_⟩
  · have := h x
    rw [BitVec.getLsbD_and] at *
    rw [bitWritten_clearLevel w l x]
    split <;> simp_all
  · have := h x
    rw [BitVec.getLsbD_and] at *
    rw [bitWritten_clearLevel v l x]
    split <;> simp_all

theorem Pic.Inv.clear_isr {p : Pic} (h : p.Inv) (l : BitVec 3) : ({ p with isr := clearLevel p.isr l } : Pic).Inv :=
  (clear_and _ _ h l).1

theorem Pic.Inv.nonSpecificEoi {p : Pic} (h : p.Inv) : p.nonSpecificEoi.Inv := by
  unfold Pic.nonSpecificEoi; split
  · exact h
  · exact h.clear_isr _

theorem Pic.Inv.rotateNonSpecificEoi {p : Pic} (h : p.Inv) : p.rotateNonSpecificEoi.Inv := by
  unfold Pic.rotateNonSpecificEoi; split
  · exact h
  · exact h.clear_isr _

theorem Pic.Inv.admitLevel {p : Pic} (h : p.Inv) (l : BitVec 3) : (p.admitLevel l).Inv := by
  unfold Pic.admitLevel
  split
  · next hc =>
    have h : p.irr &&& p.isr = 0 := h
    rw [byte_eq_zero_iff] at h
    show setLevel p.irr l &&& p.isr = 0
    rw [byte_eq_zero_iff]
    intro x
    have := h x
    rw [BitVec.getLsbD_and] at *
    rw [bitWritten_setLevel]
    split
    · next hx => rw [hx, hc.2.1]; rfl
    · exact this
  · exact h

theorem Pic.Inv.take {p q : Pic} {v : Byte} (h : p.Inv) (ht : p.take = some (v, q)) : q.Inv := by
  have h : p.irr &&& p.isr = 0 := h
  by_cases hz : p.irr &&& ~~~ p.imr = 0
  · rw [take_none hz] at ht; cases ht
  · obtain ⟨l, v', w', -, h1, h2, h3⟩ := take_some hz
    rw [h3] at ht
    cases ht
    show v' &&& w' = 0
    rw [byte_eq_zero_iff] at *
    intro x
    have := h x
    rw [BitVec.getLsbD_and] at *
    rw [h1 x, h2 x]
    split
    · rfl
    · exact this

theorem State.Inv.setPic {s : State} (h : s.Inv) (u : PicUnit) {p : Pic} (hp : p.Inv) : (s.setPic u p).Inv := by
  cases u
  · exact { h with pic0_inv := hp }
  · exact { h with pic1_inv := hp }

theorem State.Inv.pic {s : State} (h : s.Inv) (u : PicUnit) : (s.pic u).Inv := by
  cases u; exact h.pic0_inv; exact h.pic1_inv

theorem State.Inv.setPit {s : State} (h : s.Inv) (c : PitChan) (p : Pit) : (s.setPit c p).Inv := by
  cases c <;> exact { h with }

theorem State.Inv.reply {s : State} (h : s.Inv) (bs : List Byte) : (s.reply bs).Inv :=
  { h with mem_wf := Memory.writeBytes_wf h.mem_wf _ _ }

theorem State.Inv.raise {s : State} (h : s.Inv) (x : FatalReason) : (raiseFatal x s).Inv := { h with }

theorem State.Inv.deliver {s : State} (h : s.Inv) (i : Input) (rest : List Input) : (deliver s i rest).Inv := by
  cases i
  · exact { h with mem_wf := Memory.writeBytes_wf h.mem_wf _ _ }
  · exact { h with }

theorem State.Inv.admitIrq {s : State} (h : s.Inv) (n : BitVec 4) : (admitIrq n s).Inv := by
  unfold Machine.admitIrq
  split
  · exact { h with pic1_inv := h.pic1_inv.admitLevel _ }
  · exact { h with pic0_inv := h.pic0_inv.admitLevel _ }

theorem State.Inv.raiseWhen {s : State} (h : s.Inv) (c : Bool) (n : BitVec 4) : (raiseWhen c n s).Inv := by
  cases c
  · exact h
  · rw [raiseWhen_true]; exact h.admitIrq n

theorem State.Inv.deliverFrom {s : State} (h : s.Inv) (u : PicUnit) : (deliverFrom u s).Inv := by
  unfold Machine.deliverFrom
  split
  · exact h
  · next v p hp =>
    have := h.setPic u ((h.pic u).take hp)
    exact { this with }

theorem State.Inv.commit {s t : State} (h : s.Inv) {r : Result} (hr : ∀ u, r = .ok u → u.Inv) (hc : commit s r = .next t) : t.Inv := by
  cases r with
  | ok u => cases hc; exact hr _ rfl
  | error x => cases hc; exact h.raise x

theorem State.Inv.picCommand {s t : State} (h : s.Inv) {u : PicUnit} {f : Pic → Pic} (hf : ∀ p : Pic, p.Inv → (f p).Inv) (ht : picCommand u f s = .ok t) :
    t.Inv := by
  unfold Machine.picCommand at ht
  split at ht
  · cases ht; exact h.setPic u (hf _ (h.pic u))
  · cases ht

theorem State.Inv.enqueue {s t : State} (h : s.Inv) {b : Byte} (ht : enqueue b s = .ok t) : t.Inv := by
  unfold Machine.enqueue at ht
  split at ht
  · cases ht
  · next hn =>
    cases ht
    have := h.fifo_le
    refine State.Inv.raiseWhen (s := { s with kbc := { s.kbc with fifo := s.kbc.fifo ++ [b] } }) { h with fifo_le := ?_ } _ _
    simp; omega

theorem enqueue_params {s t : State} {b : Byte} (ht : Machine.enqueue b s = .ok t) : t.params = s.params := by
  unfold Machine.enqueue at ht
  split at ht
  · cases ht
  · cases ht; rfl

theorem State.Inv.setKbc {s t : State} (h : s.Inv) {f : Kbc → Kbc} (hf : ∀ k, (f k).fifo = k.fifo) (ht : setKbc f s = .ok t) : t.Inv := by
  cases ht; exact { h with fifo_le := by show (f s.kbc).fifo.length ≤ _; rw [hf]; exact h.fifo_le }

theorem State.Inv.kbcCommand {s t : State} {r : Result} (hr : ∀ u, r = .ok u → u.Inv) (ht : kbcCommand s r = .ok t) : t.Inv := by
  unfold Machine.kbcCommand at ht
  split at ht
  · exact hr t ht
  · cases ht

/-- A response then a change of the controller's registers. -/
theorem State.Inv.respond {s t : State} (h : s.Inv) {b : Byte} {f : Kbc → Kbc} (hf : ∀ k, (f k).fifo = k.fifo)
    (ht : (do let t ← Machine.enqueue b s; Machine.setKbc f t : Result) = .ok t) : t.Inv := by
  cases he : Machine.enqueue b s with
  | error x => rw [he] at ht; cases ht
  | ok u => rw [he] at ht; exact (h.enqueue he).setKbc hf ht

theorem State.Inv.setAta {s : State} (h : s.Inv) {a : Ata} (ha : a.Inv s.params.ataBufCap) : State.Inv { s with ata := a } := { h with ata_inv := ha }

theorem Ata.Inv.latch {cap : Nat} {a : Ata} (h : a.Inv cap) (b : Byte) (r : AtaLatch) : (a.writeLatch b r).Inv cap := by
  cases r <;> exact { h with }

theorem abort_bits (v : Byte) : ((v ||| 0x01) &&& 0x77).getLsbD 7 = false ∧ ((v ||| 0x01) &&& 0x77).getLsbD 3 = false ∧ (v &&& 0x36 = 0 → ((v ||| 0x01) &&& 0x77) &&& 0x36 = 0) := by revert v; decide

theorem identify_bits (v : Byte) : ((v &&& 0xF6) ||| 0x80).getLsbD 7 = true ∧ ((v &&& 0xF6) ||| 0x80).getLsbD 3 = false ∧ ((v &&& 0xF6) ||| 0x80).getLsbD 0 = false ∧ (v &&& 0x36 = 0 → ((v &&& 0xF6) ||| 0x80) &&& 0x36 = 0) := by revert v; decide

theorem packet_bits (v : Byte) : ((v &&& 0x7E) ||| 0x08).getLsbD 7 = false ∧ ((v &&& 0x7E) ||| 0x08).getLsbD 3 = true ∧ ((v &&& 0x7E) ||| 0x08).getLsbD 0 = false ∧ (v &&& 0x36 = 0 → ((v &&& 0x7E) ||| 0x08) &&& 0x36 = 0) := by revert v; decide

theorem cdb_bits (v : Byte) : ((v &&& 0xF7) ||| 0x80).getLsbD 3 = false ∧ (((v &&& 0xF7) ||| 0x80).getLsbD 0 = v.getLsbD 0) ∧ (v &&& 0x36 = 0 → ((v &&& 0xF7) ||| 0x80) &&& 0x36 = 0) := by revert v; decide

theorem data_bits (v : Byte) : ((v &&& 0x7F) ||| 0x08).getLsbD 7 = false ∧ ((v &&& 0x7F) ||| 0x08).getLsbD 3 = true ∧ (((v &&& 0x7F) ||| 0x08).getLsbD 0 = v.getLsbD 0) ∧ (v &&& 0x36 = 0 → ((v &&& 0x7F) ||| 0x08) &&& 0x36 = 0) := by revert v; decide

theorem bsy_bits (v : Byte) : (v &&& 0x7F).getLsbD 7 = false ∧ (v &&& 0x7F).getLsbD 3 = v.getLsbD 3 ∧ (v &&& 0x7F).getLsbD 0 = v.getLsbD 0 ∧ (v &&& 0x36 = 0 → (v &&& 0x7F) &&& 0x36 = 0) := by revert v; decide

theorem drq_bits (v : Byte) : (v &&& 0xF7).getLsbD 7 = v.getLsbD 7 ∧ (v &&& 0xF7).getLsbD 3 = false ∧ (v &&& 0xF7).getLsbD 0 = v.getLsbD 0 ∧ (v &&& 0x36 = 0 → (v &&& 0xF7) &&& 0x36 = 0) := by revert v; decide

theorem abort_eq (a : Ata) : a.abort = { a with status := (a.status ||| 0x01) &&& 0x77, error := 0x04 } := by
  simp only [Ata.abort, abort_status]; rfl

/-- What an abort keeps, from a channel in no phase. -/
theorem Ata.Inv.abort' {cap : Nat} {a : Ata} (h1 : a.dbuf.length = cap) (h2 : a.cdb.length = 12) (h3 : a.dread ≤ a.dsize) (h4 : a.dsize ≤ cap)
    (ht : a.tag = .none) (h5 : a.status &&& 0x36 = 0) :
    Ata.Inv cap { a with status := (a.status ||| 0x01) &&& 0x77, error := 0x04 } where
  dbuf_length := h1
  cdb_length := h2
  dread_le := h3
  dsize_le := h4
  not_bsy_drq := by simp only [Ata.bsy, Ata.drq, (abort_bits a.status).1]; simp
  cdb_phase := fun h => by rw [show _ = a.tag from rfl, ht] at h; cases h
  identify_phase := fun u h => by rw [show _ = a.tag from rfl, ht] at h; cases h
  data_phase := fun h => by simp only [Ata.drq, (abort_bits a.status).2.1] at h; cases h
  err_abrt := fun _ => rfl
  stuck_bits := (abort_bits a.status).2.2 h5

theorem Ata.Inv.startIdentify {cap : Nat} {a : Ata} (h : a.Inv cap) (ht : a.tag = .none) (u : AtaUnit) : (a.startIdentify u).Inv cap := by
  rw [startIdentify_eq]
  obtain ⟨b1, b2, b3, b4⟩ := identify_bits a.status
  split
  · exact { h with
      not_bsy_drq := by simp only [Ata.bsy, Ata.drq, b2]; simp
      cdb_phase := fun h => by cases h
      identify_phase := fun u _ => ⟨b1, b2⟩
      data_phase := fun h => by cases h.symm.trans b2
      err_abrt := fun h => by cases h.symm.trans b3
      stuck_bits := b4 h.stuck_bits }
  · exact Ata.Inv.abort' h.dbuf_length h.cdb_length h.dread_le h.dsize_le ht h.stuck_bits

theorem Ata.Inv.startPacket {cap : Nat} {a : Ata} (h : a.Inv cap) (ht : a.tag = .none) : (a.startPacket).Inv cap := by
  rw [startPacket_eq]
  obtain ⟨b1, b2, b3, b4⟩ := packet_bits a.status
  split
  · exact { h with
      not_bsy_drq := by simp only [Ata.bsy, Ata.drq, b1]; simp
      cdb_phase := fun _ => ⟨b2, b1, by show 0 < 12; omega⟩
      identify_phase := fun u h => by cases h
      data_phase := fun _ h => by cases h
      err_abrt := fun h => by cases h.symm.trans b3
      stuck_bits := b4 h.stuck_bits }
  · exact Ata.Inv.abort' h.dbuf_length h.cdb_length h.dread_le h.dsize_le ht h.stuck_bits

theorem State.Inv.ataCommand {s t : State} (h : s.Inv) {f : Ata → Ata} (hf : s.ata.tag = .none → (f s.ata).Inv s.params.ataBufCap)
    (ht : ataCommand s f = .ok t) : t.Inv := by
  unfold Machine.ataCommand at ht
  split at ht
  · cases ht
  · next hb =>
    cases ht
    refine h.setAta (hf ?_)
    simp [Ata.busy] at hb
    exact hb.2

theorem Ata.Inv.fill {cap : Nat} {a : Ata} (h : a.Inv cap) {bs : List Byte} {n : Nat} (h0 : 0 < n) (h1 : n ≤ cap) :
    Ata.Inv cap { a with dbuf := overwrite a.dbuf 0 bs, dsize := n, dread := 0, status := clearFlag (setFlag a.status ataDrq) ataBsy, tag := .none } := by
  rw [data_status]
  obtain ⟨b1, b2, b3, b4⟩ := data_bits a.status
  exact { h with
    dbuf_length := (overwrite_length _ _ _).trans h.dbuf_length
    dread_le := Nat.zero_le _
    dsize_le := h1
    not_bsy_drq := by simp only [Ata.bsy, Ata.drq, b1]; simp
    cdb_phase := fun h => by cases h
    identify_phase := fun u h => by cases h
    data_phase := fun _ _ => h0
    err_abrt := fun hh => h.err_abrt (b3.symm.trans hh)
    stuck_bits := b4 h.stuck_bits }

theorem State.Inv.cdbExecute {s t : State} (h : s.Inv) (h1 : s.ata.tag = .cdbIncoming) {cdb : List Byte} (hc : cdb.length = 12) {m : Nat}
   (ht : cdbExecute { s with ata := { s.ata with cdb := cdb, clen := m } } = .ok t) : t.Inv := by
  have ha := h.ata_inv
  have hd : s.ata.drq = true := (ha.cdb_phase h1).1
  obtain ⟨b1, b2, b3⟩ := cdb_bits s.ata.status
  have hst : (({ s.ata with cdb := cdb, clen := m } : Ata).beginCdb) = { s.ata with cdb := cdb, clen := 0, tag := .none, status := (s.ata.status &&& 0xF7) ||| 0x80 } := by
    simp only [Ata.beginCdb, cdb_status]
  obtain ⟨w, hw⟩ : ∃ w, w = (s.ata.status &&& 0xF7) ||| 0x80 := ⟨_, rfl⟩
  rw [← hw] at b1 b2 b3 hst
  have b3 := b3 ha.stuck_bits
  obtain ⟨c1, c2, c3, c4⟩ := bsy_bits w
  simp only [Machine.cdbExecute, hst] at ht
  split at ht
  · unfold cdbRead10 at ht
    simp only at ht
    split at ht
    · cases ht
      refine h.setAta ?_
      rw [abort_eq]
      exact Ata.Inv.abort' ha.dbuf_length hc ha.dread_le ha.dsize_le rfl b3
    · split at ht
      · cases ht
      · next lba cnt _ hn hcap =>
        split at ht
        · cases ht
          rw [clear_bsy]
          refine h.setAta { ha with
            cdb_length := hc
            dread_le := Nat.le_refl _
            dsize_le := Nat.zero_le _
            not_bsy_drq := by simp only [Ata.bsy, Ata.drq, c1]; simp
            cdb_phase := fun h => by cases h
            identify_phase := fun u h => by cases h
            data_phase := fun hh => by cases hh.symm.trans (c2.trans b1)
            err_abrt := fun hh => ha.err_abrt ((b2.symm.trans c3.symm).trans hh)
            stuck_bits := c4 b3 }
        · next hz =>
          cases ht
          have hz' : 0 < cnt.toNat := by
            rcases Nat.eq_zero_or_pos cnt.toNat with e | e
            · exact absurd (BitVec.eq_of_toNat_eq e) hz
            · exact e
          rw [data_status]
          obtain ⟨d1, d2, d3, d4⟩ := data_bits w
          refine h.setAta { ha with
            dbuf_length := (overwrite_length _ _ _).trans ha.dbuf_length
            cdb_length := hc
            dread_le := Nat.zero_le _
            dsize_le := Nat.le_of_not_lt (fun hh => hcap (Nat.not_le_of_lt hh))
            not_bsy_drq := by simp only [Ata.bsy, Ata.drq, d1]; simp
            cdb_phase := fun h => by cases h
            identify_phase := fun u h => by cases h
            data_phase := fun _ _ => Nat.mul_pos hz' (by decide)
            err_abrt := fun hh => ha.err_abrt ((b2.symm.trans d3.symm).trans hh)
            stuck_bits := d4 b3 }
  · cases ht
    rw [clear_bsy]
    refine h.setAta { ha with
            cdb_length := hc
            not_bsy_drq := by simp only [Ata.bsy, Ata.drq, c1]; simp
            cdb_phase := fun h => by cases h
            identify_phase := fun u h => by cases h
            data_phase := fun hh => by cases hh.symm.trans (c2.trans b1)
            err_abrt := fun hh => ha.err_abrt ((b2.symm.trans c3.symm).trans hh)
            stuck_bits := c4 b3 }
  · cases ht

theorem State.Inv.ataDataWrite {s t : State} (h : s.Inv) {n : Nat} (ht : ataDataWrite n s = .ok t) : t.Inv := by
  unfold Machine.ataDataWrite at ht
  split at ht
  · cases ht
  · next hp =>
    have h1 : s.ata.tag = .cdbIncoming := by
      by_contra hh; exact hp (.inr hh)
    split at ht
    · cases ht
    · next hn =>
      have hl := (overwrite_length s.ata.cdb s.ata.clen (s.payload n)).trans h.ata_inv.cdb_length
      simp only at ht
      split at ht
      · exact h.cdbExecute h1 hl ht
      · next h12 =>
        cases ht
        have hi := h.ata_inv
        exact h.setAta { hi with
          cdb_length := hl
          cdb_phase := fun hh => ⟨(hi.cdb_phase hh).1, (hi.cdb_phase hh).2.1, by show s.ata.clen + n < 12; omega⟩ }

theorem State.Inv.ataDataRead {s t : State} (h : s.Inv) {n : Nat} (ht : ataDataRead n s = .ok t) : t.Inv := by
  unfold Machine.ataDataRead at ht
  split at ht
  · cases ht
  · next hp =>
    cases ht
    have hi := h.ata_inv
    have htag : s.ata.tag = .none := by by_contra hh; exact hp (.inr (.inl hh))
    have hd : s.ata.drq = true := by
      cases hq : s.ata.drq
      · exact absurd (.inl hq) hp
      · rfl
    have hlt := hi.data_phase hd htag
    refine (h.setAta ?_).reply _
    unfold Ata.advance
    obtain ⟨b1, b2, b3, b4⟩ := drq_bits s.ata.status
    split
    · rw [clear_drq]
      exact { hi with
        dread_le := Nat.le_refl _
        dsize_le := Nat.zero_le _
        not_bsy_drq := by simp only [Ata.bsy, Ata.drq, b2]; simp
        cdb_phase := fun h => by cases htag.symm.trans h
        identify_phase := fun u h => by cases htag.symm.trans h
        data_phase := fun hh => by cases hh.symm.trans b2
        err_abrt := fun hh => hi.err_abrt (b3.symm.trans hh)
        stuck_bits := b4 hi.stuck_bits }
    · next hne =>
      exact { hi with
        dread_le := by show s.ata.dread + min n (s.ata.dsize - s.ata.dread) ≤ s.ata.dsize; omega
        data_phase := fun _ _ => by show s.ata.dread + min n (s.ata.dsize - s.ata.dread) < s.ata.dsize; omega }

theorem State.Inv.ataDevctl {s t : State} (h : s.Inv) {b : Byte} (ht : ataDevctl b s = .ok t) : t.Inv := by
  have hi := h.ata_inv
  unfold Machine.ataDevctl at ht
  split at ht
  · split at ht
    · cases ht
    · cases ht
      exact h.setAta {
        dbuf_length := by simpa [Ata.softReset] using hi.dbuf_length
        cdb_length := hi.cdb_length
        dread_le := Nat.le_refl _
        dsize_le := Nat.zero_le _
        not_bsy_drq := fun hh => by have : (0x40 : Byte).getLsbD 7 = true := hh.1; clear h hi; exact absurd this (by decide)
        cdb_phase := fun h => by cases h
        identify_phase := fun u h => by cases h
        data_phase := fun hh => by have : (0x40 : Byte).getLsbD 3 = true := hh; exact absurd this (by decide)
        err_abrt := fun hh => by have : (0x40 : Byte).getLsbD 0 = true := hh; exact absurd this (by decide)
        stuck_bits := show (0x40 : Byte) &&& 0x36 = 0 by decide }
  · cases ht; exact h.setAta { hi with }

end Sys2Proof.Machine
end

