-- ==== Sys2Proof/Laws/Pit.lean ====
section
/-! SUPPORT. The timer's two-byte values and its read-back, said once. -/

namespace Sys2Proof.Machine

/-- A 16-bit value from its two bytes, as a number. -/
theorem highLow_toNat (a b : Byte) : (highLow a b).toNat = a.toNat * 256 + b.toNat := by
  have hb := b.isLt
  rw [highLow, BitVec.toNat_append, ← Nat.shiftLeft_add_eq_or_of_lt hb, Nat.shiftLeft_eq]

theorem highLow_eq (a b : Byte) : highLow a b = BitVec.ofNat 16 (a.toNat * 256 + b.toNat) := by
  have ha := a.isLt
  have hb := b.isLt
  apply BitVec.eq_of_toNat_eq
  rw [highLow_toNat, BitVec.toNat_ofNat, Nat.mod_eq_of_lt (by omega)]

theorem highByte_eq (v : Half) : v.extractLsb' 8 8 = BitVec.ofNat 8 (v.toNat / 256) := by
  apply BitVec.eq_of_toNat_eq; simp [Nat.shiftRight_eq_div_pow]

theorem lowByte_eq (v : Half) : v.extractLsb' 0 8 = BitVec.ofNat 8 v.toNat := by
  apply BitVec.eq_of_toNat_eq; simp

/-- 30_encoding.md R140 as a number. -/
theorem status_eq (q : Pit) (out : Bool) : q.statusByte out =
    BitVec.ofNat 8 (out.toNat * 128 + q.nullCount.toNat * 64 + q.access.toNat * 16 + q.mode.toNat * 2 + q.bcd.toNat) := by
  obtain ⟨_, _, acc, m, bcd, _, nc, _, _, _, _⟩ := q
  simp only [Pit.statusByte]
  revert out nc acc m bcd
  decide

/-- 42_pit.md R244 on one channel, the OUT bit being `out`. -/
def Pit.latched (countN statusN : Bool) (out : Bool) (q : Pit) : Pit :=
  { q with
    clVal := if countN = false ∧ q.clPend = false then q.count else q.clVal
    clPend := q.clPend || !countN
    slVal := if statusN = false ∧ q.slPend = false then q.statusByte out else q.slVal
    slPend := q.slPend || !statusN }

/-- All that R244 can do to one channel: latch it, and draw or not. -/
theorem readbackChan_spec (countN statusN : Bool) (c : PitChan) (s : State) :
   ∃ out n, readbackChan countN statusN c s = { s.setPit c ((s.pit c).latched countN statusN out) with draws := n } := by
  have key : ∀ (t : State) (q : Pit), t.pit c = q → s.setPit c q = t → s.draws = t.draws →
    q = { s.pit c with clVal := if countN = false ∧ (s.pit c).clPend = false then (s.pit c).count else (s.pit c).clVal, clPend := (s.pit c).clPend || !countN } →
    ∃ out n, (if statusN then t else latchStatus c t) = { s.setPit c ((s.pit c).latched countN statusN out) with draws := n } := by
    intro t q h1 h2 hd h3
    cases statusN
    · simp only [Bool.false_eq_true, if_false]
      unfold latchStatus
      cases h4 : (t.pit c).slPend
      · refine ⟨Config.pitOut t.draws, t.draws + 1, ?_⟩
        simp only [Bool.false_eq_true, if_false, ← h2, State.setPit_setPit, State.setPit_pit]
        rw [h3]
        rw [h1, h3] at h4
        simp only at h4
        simp [Pit.latched, h4, Pit.statusByte]
      · refine ⟨false, t.draws, ?_⟩
        rw [h1, h3] at h4
        simp only at h4
        have hq : (s.pit c).latched countN false false = q := by rw [h3]; simp [Pit.latched, h4]
        rw [hq, h2]; rfl
    · refine ⟨false, t.draws, ?_⟩
      have hq : (s.pit c).latched countN true false = q := by rw [h3]; simp [Pit.latched]
      rw [hq, h2]; rfl
  unfold readbackChan
  cases countN
  · refine key _ ((s.pit c).latchCount) (by simp) (by simp) (by simp) ?_
    clear key
    generalize s.pit c = q
    unfold Pit.latchCount
    cases q; split <;> simp_all
  · exact key _ (s.pit c) (by simp) (by simp) (by simp) (by simp)

end Sys2Proof.Machine
end

