-- ==== Sys2Proof/Tests/Slice0.lean ====
section
/-! SUPPORT. Tests. Words are written out from the tables of 30_encoding.md; the results of one-step tests are the rows of
95_test_vectors.md named in each comment. -/

namespace Sys2Proof.Tests

open Sys2Proof Sys2Proof.Machine

/-! ## A small instance and one step of it -/

/-- Instance I of 95_test_vectors.md in what the tests read, with a FIFO of 3 and one sector. -/
def tp : Params where
  picResetBase0 := 0x00
  picResetBase1 := 0x00
  pitTickModes := 0x44
  kbcFifoCap := 3
  kbcStatusInit := 0x14
  kbcConfigInit := 0x00
  kbcOutportInit := 0xCF
  kbcForward := true
  ataBufCap := 2048
  cdSize := 2048
  cdImage := List.replicate 2048 0x10
  hdSize := 512
  pciNumBlocks := 3
  pciDisplayIndex := 2
  pciHostRest := List.replicate 252 0
  pciDisplay := List.replicate 256 0
  cmosInit := List.replicate 128 0

theorem tp_wf : tp.wf := by
  refine ⟨by decide, by decide, rfl, by decide, by decide, List.length_replicate, by decide, by decide, ?_, ?_, ?_⟩ <;>
    exact List.length_replicate

/-- Right after start-up under `tp`. -/
def t0 : State := State.resetWith tp

/-- `s` about to take `i`. -/
def give (s : State) (i : Input) : State := { s with inputs := [i] }

/-- One step of `s` on `i`. -/
def one (s : State) (i : Input) : State :=
  match step (give s i) with
  | .next t => t
  | _ => s

def out1 (port : BitVec 16) (b : Byte) : Input := outByte port 0 b
def in1 (port : BitVec 16) : Input := inByte port 0 [0xEE]

/-- The host byte an `IN1` gets, and the reason of a fatal. -/
def got (s : State) (port : BitVec 16) : Byte := (one s (in1 port)).mem.read 0
def why (s : State) (i : Input) : Option FatalReason := (one s i).fatal.map (·.reason)

/-- `t0` with the primary unit, the first timer channel, the keyboard controller or the ATA channel changed. -/
def withPic (f : Pic → Pic) : State := { t0 with pic0 := f t0.pic0 }
def withPit (f : Pit → Pit) : State := { t0 with pit0 := f t0.pit0 }
def withKbc (f : Kbc → Kbc) : State := { t0 with kbc := f t0.kbc }
def withAta (f : Ata → Ata) : State := { t0 with ata := f t0.ata }

/-- A channel that waits for a CDB, `n` of whose bytes are in. -/
def cdbState (n : Nat) : State := withAta fun a => { a with status := 0x48, tag := .cdbIncoming, clen := n }

/-- A channel with three bytes of data. -/
def dataState : State :=
  withAta fun a => { a with status := 0x48, dbuf := 0xA1 :: 0xA2 :: 0xA3 :: List.replicate 2045 0, dsize := 3 }

/-! ## Well-formedness: each check refuses an ill-formed term -/

theorem test_wf_icw1 : (Instr.picIcw1 .primary 0x01).wf = false ∧ (Instr.picIcw1 .primary 0x10).wf = true := by decide
theorem test_wf_ocw3_bit3 : (Instr.picOcw3 .primary 0x00).wf = false ∧ (Instr.picOcw3 .primary 0x08).wf = true := by decide
theorem test_wf_ocw3_bit4 : (Instr.picOcw3 .primary 0x18).wf = false := by decide
theorem test_wf_cw : (Instr.pitCw .c0 0 2 false).wf = false ∧ (Instr.pitCw .c0 1 2 false).wf = true := by decide
theorem test_wf_data_write : (Instr.ataDataWrite .w2 0).wf = false ∧ (Instr.ataDataWrite .w2 1).wf = true := by decide
theorem test_wf_data_read : (Instr.ataDataRead .w4 0).wf = false ∧ (Instr.ataDataRead .w4 1).wf = true := by decide
theorem test_wf_pci_write : (Instr.pciDataWrite .b1 0 0x100).wf = false ∧ (Instr.pciDataWrite .b1 0 0xFF).wf = true ∧
    (Instr.pciDataWrite .b2 0 0x10000).wf = false ∧ (Instr.pciDataWrite .b2 0 0xFFFF).wf = true := by decide

/-! ## Decoding: each constructor from a word written out from R130 to R151 -/

/-- What the decoder reads from a selector word in the sequencing state `c`. -/
def dec (c : SeqState) (w : Nat) : Option Instr :=
  match Wire.ofSel (BitVec.ofNat 32 w) with
  | none => none
  | some x => (decodePort c x).toOption

/-- Reset's sequencing state, and it with the PIC cursors, timer cursors or keyboard cursors changed. -/
def c0 : SeqState := SeqState.reset
def atPic (x : PicInit) : SeqState := { c0 with picInit0 := x, picInit1 := x }
def atPit (access : BitVec 2) (low sl cl : Bool) : SeqState := { c0 with pit1 := ⟨access, low, sl, cl⟩ }

theorem test_decode_icw : dec c0 0x90002015 = some (.picIcw1 .primary 0x15) ∧
    dec (atPic .icw2) 0x9000A170 = some (.picIcw2 .secondary 0x70) ∧
    dec (atPic .icw3) 0x90002104 = some (.picIcw3 .primary 0x04) ∧
    dec (atPic .icw4) 0x9000A103 = some (.picIcw4 .secondary 0x03) ∧
    dec c0 0x900021FE = some (.picOcw1 .primary 0xFE) := by decide

theorem test_decode_ocw2 : dec c0 0x90002027 = some (.picNseoi .primary) ∧
    dec c0 0x9000A066 = some (.picSeoi .secondary 6) ∧
    dec c0 0x900020A0 = some (.picRotNseoi .primary) ∧
    dec c0 0x900020E3 = some (.picRotSeoi .primary 3) ∧
    dec c0 0x9000A0C2 = some (.picSetpri .secondary 2) ∧
    dec c0 0x90002080 = some (.picRotAeoiSet .primary) ∧
    dec c0 0x90002000 = some (.picRotAeoiClr .primary) ∧
    dec c0 0x90002041 = some (.picOcw2Nop .primary) := by decide

theorem test_decode_ocw3_read : dec c0 0x9000206B = some (.picOcw3 .primary 0x6B) ∧
    dec c0 0x1000A100 = some (.picDataRead .secondary) ∧ dec c0 0x1000A000 = none := by decide

theorem test_decode_pit_command : dec c0 0x900043B5 = some (.pitCw .c2 3 2 true) ∧
    dec c0 0x9000434F = some (.pitLatch .c1) ∧
    dec c0 0x900043E4 = some (.pitReadback true false 0b010) ∧
    dec c0 0x900043D8 = some (.pitReadback false true 0b100) := by decide

theorem test_decode_pit_data : dec (atPit 1 true false false) 0x90004177 = some (.pitWLsb .c1 0x77) ∧
    dec (atPit 2 true false false) 0x90004177 = some (.pitWMsb .c1 0x77) ∧
    dec (atPit 3 true false false) 0x90004177 = some (.pitWLow .c1 0x77) ∧
    dec (atPit 3 false false false) 0x90004177 = some (.pitWHigh .c1 0x77) ∧
    dec (atPit 0 true true true) 0x10004100 = some (.pitDataRead .c1) ∧
    dec (atPit 3 true false true) 0x10004100 = some (.pitRLatched .c1) ∧
    dec (atPit 3 true false false) 0x10004100 = some (.pitRLive .c1) := by decide

theorem test_decode_kbc : dec c0 0x10006400 = some .kbcStatusRead ∧ dec c0 0x10006000 = some .kbcDataRead ∧
    dec c0 0x90006420 = some .kbcReadConfig ∧ dec c0 0x90006460 = some .kbcWriteConfig ∧
    dec c0 0x900064A7 = some .kbcDisablePort2 ∧ dec c0 0x900064A8 = some .kbcEnablePort2 ∧
    dec c0 0x900064AA = some .kbcSelfTest ∧ dec c0 0x900064AB = some .kbcTestPort1 ∧
    dec c0 0x900064AD = some .kbcDisablePort1 ∧ dec c0 0x900064AE = some .kbcEnablePort1 ∧
    dec c0 0x900064D0 = some .kbcReadOutport ∧ dec c0 0x900064D1 = some .kbcWriteOutport ∧
    dec c0 0x900064D4 = none := by decide

theorem test_decode_kbc_data : dec { c0 with kbcExpect := .config } 0x900060F0 = some (.kbcConfigPayload 0xF0) ∧
    dec { c0 with kbcExpect := .outport } 0x900060DF = some (.kbcOutportPayload 0xDF) ∧
    dec { c0 with kbdExpect := .scansetArg } 0x900060FF = some (.kbdScansetArg 0xFF) ∧
    dec c0 0x900060F0 = some .kbdSetScanset ∧ dec c0 0x900060F4 = some .kbdEnableScan ∧
    dec c0 0x900060F5 = some .kbdDisableScan ∧ dec c0 0x900060FF = some .kbdReset ∧ dec c0 0x900060ED = none := by decide

theorem test_decode_ata : dec c0 0x9001F177 = some (.ataLatchWrite .features 0x77) ∧
    dec c0 0x9001F201 = some (.ataLatchWrite .seccount 1) ∧ dec c0 0x9001F302 = some (.ataLatchWrite .lba0 2) ∧
    dec c0 0x9001F403 = some (.ataLatchWrite .lba1 3) ∧ dec c0 0x9001F504 = some (.ataLatchWrite .lba2 4) ∧
    dec c0 0x9001F6B0 = some (.ataLatchWrite .drvhead 0xB0) ∧ dec c0 0x1001F100 = some .ataErrorRead ∧
    dec c0 0x1001F200 = some (.ataLatchRead .seccount) ∧ dec c0 0x1001F300 = some (.ataLatchRead .lba0) ∧
    dec c0 0x1001F400 = some (.ataLatchRead .lba1) ∧ dec c0 0x1001F500 = some (.ataLatchRead .lba2) ∧
    dec c0 0x1001F600 = some (.ataLatchRead .drvhead) ∧ dec c0 0x1001F700 = some .ataStatusRead ∧
    dec c0 0x1003F600 = some .ataAltstatusRead ∧ dec c0 0x9003F604 = some (.ataDevctl 4) := by decide

theorem test_decode_ata_command : dec c0 0x9001F700 = some .ataNop ∧ dec c0 0x9001F7A1 = some .ataIdentifyPacket ∧
    dec c0 0x9001F7EC = some .ataIdentify ∧ dec c0 0x9001F7A0 = some .ataPacket ∧ dec c0 0x9001F720 = none ∧
    decodePort c0 (Wire.out1 0x1F7 0x20) = .error .unrecognizedCommand ∧
    decodePort { c0 with ataBusy := true } (Wire.out1 0x1F7 0x20) = .error .busy := by decide

theorem test_decode_ata_data : dec c0 0xA001F000 = some (.ataDataWrite .w2 1) ∧ dec c0 0x4001F000 = some (.ataDataRead .w4 1) ∧
    decodePort c0 ⟨.out, .b4, 0x1F0, 3, 0⟩ = .ok (.ataDataWrite .w4 3) ∧
    decodePort c0 ⟨.inp, .b2, 0x1F0, 256, 0⟩ = .ok (.ataDataRead .w2 256) ∧
    decodePort c0 ⟨.inp, .b2, 0x1F0, 0, 0⟩ = .error .unmappedAccess ∧ dec c0 0x1001F000 = none := by decide

theorem test_decode_cdb :
    decodeCdb [0x28, 0, 1, 2, 3, 4, 0, 5, 6, 0, 0, 0] = .ok (.cdbRead10 0x01020304 0x0506) ∧
    decodeCdb (List.replicate 12 0) = .ok .cdbTestUnitReady ∧
    decodeCdb (0x12 :: List.replicate 11 0) = .error .unrecognizedCommand := by decide

theorem test_decode_dma : dec c0 0x90000B4A = some (.dmaMode .slave 0x4A) ∧ dec c0 0x9000D6C0 = some (.dmaMode .master 0xC0) ∧
    dec c0 0x90000AFE = some (.dmaSingleMask .slave true 2) ∧ dec c0 0x9000D401 = some (.dmaSingleMask .master false 1) ∧
    dec c0 0x90000D00 = some (.dmaMasterReset .slave) ∧ dec c0 0x9000DA55 = some (.dmaMasterReset .master) ∧
    dec c0 0x10000A00 = none ∧ dec c0 0x90000000 = none := by decide

theorem test_decode_pci : decodePort c0 ⟨.out, .b4, 0xCF8, 1, 0x80000808⟩ = .ok (.pciAddrWrite 0x80000808) ∧
    dec c0 0x400CF800 = some .pciAddrRead ∧ dec c0 0x200CFE00 = some (.pciDataRead .b2 2) ∧
    dec c0 0x900CFDAB = some (.pciDataWrite .b1 1 0xAB) ∧
    decodePort c0 ⟨.out, .b4, 0xCFC, 1, 0xDEADBEEF⟩ = .ok (.pciDataWrite .b4 0 0xDEADBEEF) ∧
    dec c0 0x900CF900 = none ∧ dec c0 0xA00CF800 = none := by decide

theorem test_decode_cmos : dec c0 0x9000708F = some (.cmosIndex 0x8F) ∧ dec c0 0x10007100 = some .cmosDataRead ∧
    dec c0 0x9000715A = some (.cmosDataWrite 0x5A) ∧ dec c0 0x10007000 = none := by decide

theorem test_decode_agents : decode c0 (.agent (.picTick true)) = .ok (.picTick true) ∧
    decode c0 (.agent .pitTick) = .ok .pitTick ∧ decode c0 (.agent .identifyDone) = .ok .ataIdentifyDone ∧
    decode c0 (.agent (.hostTake .secondary)) = .ok (.hostTake .secondary) ∧
    decode c0 (.agent (.hostPending .primary)) = .ok (.hostPending .primary) := by decide

/-- DSP-1, DSP-2, DSP-3, DSP-4. -/
theorem test_decode_refused : decodePort c0 (Wire.in1 0x80) = .error .unclaimedPort ∧
    decodePort c0 ⟨.out, .b2, 0x21, 1, 0xFF⟩ = .error .unmappedAccess ∧
    decodePort c0 ⟨.out, .b1, 0x20, 2, 0x11⟩ = .error .unmappedAccess ∧
    decodePort c0 ⟨.inp, .b1, 0x60, 0, 0⟩ = .error .unmappedAccess := by decide

/-- A table word as the next instruction (log 13): it runs, and the cursors move only where they must. -/
theorem test_fetch_word : (match step (State.reset.withFetchWord 32 0x90002011) with | .next t => t.pic0.init | _ => .icw1) = .icw2 ∧
    (match step (State.reset.withFetchWord 8 0x00) with | .next t => t.ata.tag == .none | _ => false) = true := by decide

/-! ## One step, from the vectors of 95_test_vectors.md -/

/-- E2, PIC-1, PIC-28. -/
theorem test_icw1 : (one t0 (out1 0x20 0x11)).pic0.init = .icw2 ∧
    (one (withPic fun p => { p with imr := 0xFE, irr := 1, isr := 2, icw4 := 3, rsel := .isr }) (out1 0x20 0x11)).pic0 =
      { t0.pic0 with icw1 := 0x11, init := .icw2, imr := 0xFE, irr := 1, isr := 2, icw4 := 0, rsel := .imr } := by decide

/-- PIC-1, PIC-3. -/
theorem test_icw2 : (one (withPic fun p => { p with init := .icw2, icw1 := 0x13 }) (out1 0x21 0x20)).pic0.init = .icw4 ∧
    (one (withPic fun p => { p with init := .icw2, icw1 := 0x10 }) (out1 0x21 0x08)).pic0.init = .icw3 ∧
    (one (withPic fun p => { p with init := .icw2, icw1 := 0x12 }) (out1 0x21 0x40)).pic0.init = .icw1 := by decide

/-- PIC-3, E2. -/
theorem test_icw3_icw4 : (one (withPic fun p => { p with init := .icw3, icw1 := 0x10 }) (out1 0x21 0x04)).pic0.init = .icw1 ∧
    (one (withPic fun p => { p with init := .icw3, icw1 := 0x11 }) (out1 0x21 0x04)).pic0.init = .icw4 ∧
    (one (withPic fun p => { p with init := .icw4 }) (out1 0x21 0x03)).pic0.icw4 = 3 := by decide

/-- PIC-4, PIC-5, PIC-6. -/
theorem test_pic_sequence : why (withPic fun p => { p with init := .icw2 }) (out1 0x20 0x11) = some .initSequenceViolation ∧
    why (withPic fun p => { p with init := .icw3 }) (out1 0x20 0x20) = some .initSequenceViolation ∧
    got (withPic fun p => { p with init := .icw3 }) 0x21 = 0xFF := by decide

/-- E3, PIC-13, PIC-14. -/
theorem test_nseoi : (one (withPic fun p => { p with isr := 0x28 }) (out1 0x20 0x20)).pic0.isr = 0x20 ∧
    (one t0 (out1 0x20 0x20)).pic0 = t0.pic0 ∧
    (one (withPic fun p => { p with isr := 0x08 }) (out1 0x20 0xA0)).pic0 = { t0.pic0 with prio := 3 } := by decide

/-- PIC-12, PIC-16, PIC-17. -/
theorem test_specific : (one (withPic fun p => { p with isr := 0x28 }) (out1 0x20 0x65)).pic0.isr = 0x08 ∧
    (one t0 (out1 0x20 0xE6)).pic0.prio = 6 ∧
    (one (withPic fun p => { p with isr := 4 }) (out1 0x20 0xC2)).pic0 = { t0.pic0 with isr := 4, prio := 2 } := by decide

/-- PIC-10, PIC-11, PIC-19. -/
theorem test_rotate_aeoi : (one (withPic fun p => { p with rotAeoi := true }) (out1 0x20 0x00)).pic0.rotAeoi = false ∧
    (one t0 (out1 0x20 0x80)).pic0.rotAeoi = true ∧ (one t0 (out1 0x20 0x40)).pic0 = t0.pic0 := by decide

/-- PIC-7, PIC-8, PIC-9. -/
theorem test_ocw3 : (one t0 (out1 0x20 0x0A)).pic0.rsel = .irr ∧ (one t0 (out1 0x20 0x0B)).pic0.rsel = .isr ∧
    (one t0 (out1 0x20 0x68)).pic0.smm = true ∧
    (one (withPic fun p => { p with smm := true }) (out1 0x20 0x48)).pic0.smm = false ∧
    got (withPic fun p => { p with rsel := .irr, irr := 0x42 }) 0x21 = 0x42 := by decide

/-- PIC-15, PIC-18. -/
theorem test_take :
    (one (withPic fun p => { p with prio := 3, irr := 0x81, imr := 0, icw2 := 8 }) (.agent (.hostTake .primary))).pic0 =
      { t0.pic0 with prio := 3, irr := 0x01, imr := 0, icw2 := 8, isr := 0x80 } ∧
    (one (withPic fun p => { p with prio := 3, irr := 0x81, imr := 0, icw2 := 8 }) (.agent (.hostTake .primary))).events = [.inject 0x0F] ∧
    (one (withPic fun p => { p with icw4 := 3, irr := 1, imr := 0xFE, icw2 := 8, rotAeoi := true }) (.agent (.hostTake .primary))).pic0.prio = 0 := by
  decide

/-- PIC-23, PIC-24. -/
theorem test_take_nested :
    (one (withPic fun p => { p with isr := 1, irr := 2, imr := 0, icw2 := 8 }) (.agent (.hostTake .primary))).pic0.isr = 3 ∧
    (one (withPic fun p => { p with irr := 0x20, imr := 0, icw2 := 0xFC }) (.agent (.hostTake .primary))).events = [.inject 1] := by
  decide

/-- PIC-26, PIC-27, PIC-21. -/
theorem test_pic_tick : (one (withPic fun p => { p with irr := 1, imr := 0xFE }) (.agent (.picTick false))).events = [] ∧
    (one (withPic fun p => { p with irr := 2, imr := 0, icw2 := 8 }) (.agent (.picTick true))).events = [.inject 9] ∧
    (one (withPic fun p => { p with irr := 1, imr := 1 }) (.agent (.hostPending .primary))).hostAnswer = some false := by decide

/-- PIT-17, PIT-6. -/
theorem test_cw_latch : (one (withPit fun c => { c with access := 3, lowNext := false, count := 0x1234, nullCount := false }) (out1 0x43 0x14)).pit0 =
      { t0.pit0 with access := 1, mode := 2, count := 0x1234, nullCount := false } ∧
    (one (withPit fun c => { c with access := 3, count := 0x1200 }) (out1 0x43 0x00)).pit0.clVal = 0x1200 ∧
    (one (withPit fun c => { c with clPend := true, clVal := 7, count := 0x1200 }) (out1 0x43 0x00)).pit0.clVal = 7 := by decide

/-- PIT-3, PIT-8, PIT-20: all but the OUT bit. -/
theorem test_readback : (∀ out, t0.pit1.statusByte out &&& 0x7F = 0x40) ∧ (one t0 (out1 0x43 0xE4)).pit1.slPend = true ∧
    (readbackAll true false 2 t0).pit1.slVal = t0.pit1.statusByte (Config.pitOut 0) ∧
    (one (withPit fun c => { c with access := 1, count := 5, nullCount := false }) (out1 0x43 0xC2)).pit0.clVal = 5 ∧
    (one (withPit fun c => { c with slPend := true, slVal := 9 }) (out1 0x43 0xE2)).pit0.slVal = 9 := by
  exact ⟨by decide, by decide, rfl, by decide, by decide⟩

/-- PIT-1, PIT-4, PIT-5, E4. -/
theorem test_pit_writes : why t0 (out1 0x40 0x00) = some .unmappedAccess ∧
    (one (withPit fun c => { c with access := 1 }) (out1 0x40 5)).pit0.count = 5 ∧
    (one (withPit fun c => { c with access := 2 }) (out1 0x40 0x12)).pit0.reload = 0x1200 ∧
    (one (withPit fun c => { c with access := 3 }) (out1 0x40 0x34)).pit0 =
      { t0.pit0 with access := 3, reload := 0x0034, lowNext := false } ∧
    (one (withPit fun c => { c with access := 3, reload := 0x34, lowNext := false }) (out1 0x40 0x12)).pit0.count = 0x1234 := by decide

/-- PIT-2, PIT-6, PIT-10. -/
theorem test_pit_reads : why t0 (in1 0x41) = some .unmappedAccess ∧
    got (withPit fun c => { c with access := 3, clPend := true, clVal := 0x1234, lowNext := false }) 0x40 = 0x12 ∧
    (one (withPit fun c => { c with access := 3, clPend := true, clVal := 0x1234 }) (in1 0x40)).pit0.clPend = true ∧
    got (withPit fun c => { c with access := 3, reload := 0x0078, lowNext := false }) 0x40 = 0x00 ∧
    got (withPit fun c => { c with slPend := true, slVal := 0x34 }) 0x40 = 0x34 := by decide

/-- PIT-11, PIT-12, PIT-14, PIT-16. -/
theorem test_pit_tick :
    (one { withPit fun c => { c with mode := 2, count := 1, reload := 2, nullCount := false } with pic0 := { t0.pic0 with imr := 0xFE } }
      (.agent .pitTick)).pic0.irr = 1 ∧
    (one (withPit fun c => { c with mode := 2, nullCount := false }) (.agent .pitTick)).pit0.count = 0xFFFF ∧
    (one (withPit fun c => { c with mode := 3, count := 5, nullCount := false }) (.agent .pitTick)).pit0.count = 5 := by decide

/-- KBC-1, KBC-2, E8. -/
theorem test_kbc_reads : got t0 0x64 = 0x14 ∧ got t0 0x60 = 0xFF ∧ got (withKbc fun k => { k with fifo := [0x55, 0] }) 0x60 = 0x55 ∧
    (one (withKbc fun k => { k with fifo := [0x55, 0] }) (in1 0x60)).kbc.fifo = [0] ∧
    got (withKbc fun k => { k with status := 0x10, fifo := [0x55] }) 0x64 = 0x11 := by decide

/-- KBC-3, KBC-7, KBC-8, KBC-9. -/
theorem test_kbc_registers : (one t0 (out1 0x64 0x60)).kbc.expect = .config ∧ (one t0 (out1 0x64 0xD1)).kbc.expect = .outport ∧
    (one t0 (out1 0x64 0xA7)).kbc.config = 0x20 ∧ (one t0 (out1 0x64 0xAD)).kbc.config = 0x10 ∧
    (one (withKbc fun k => { k with config := 0x30 }) (out1 0x64 0xA8)).kbc.config = 0x10 ∧
    (one (withKbc fun k => { k with config := 0x30 }) (out1 0x64 0xAE)).kbc.config = 0x20 ∧
    (one (withKbc fun k => { k with expect := .config }) (out1 0x60 0x45)).kbc.config = 0x45 ∧
    (one (withKbc fun k => { k with expect := .outport }) (out1 0x60 0xDF)).kbc.outport = 0xDF := by decide

/-- KBC-3, KBC-10, KBC-20, E8. -/
theorem test_kbc_responses : (one t0 (out1 0x64 0xD0)).kbc.fifo = [0xCF] ∧ (one t0 (out1 0x64 0xAB)).kbc.fifo = [0x00] ∧
    (one t0 (out1 0x64 0xAA)).kbc.status = 0x10 ∧
    (one { withKbc fun k => { k with config := 0x45 } with pic0 := { t0.pic0 with imr := 0xFD } } (out1 0x64 0x20)).pic0.irr = 2 := by
  decide

/-- KBC-11, KBC-14, KBC-15, KBC-12, KBC-16. -/
theorem test_keyboard : why (withKbc fun k => { k with fifo := [0, 0, 0] }) (out1 0x64 0xAB) = some .capacityExceeded ∧
    (one (withKbc fun k => { k with fifo := [0x55, 0] }) (out1 0x60 0xFF)).kbc.fifo = [0x55, 0] ∧
    (one (withKbc fun k => { k with status := 0x10 }) (out1 0x60 0xFF)).kbc = { t0.kbc with fifo := [0xFA, 0xAA], status := 0x14 } ∧
    (one t0 (out1 0x60 0xF0)).kbc.devExpect = .scansetArg ∧ (one t0 (out1 0x60 0xF4)).kbc.fifo = [0xFA] ∧
    (one (withKbc fun k => { k with devExpect := .scansetArg }) (out1 0x60 0xFF)).kbc.fifo = [0xFA] := by decide

/-- KBC-4, KBC-5, KBC-6, KBC-17. -/
theorem test_kbc_fatal : why (withKbc fun k => { k with expect := .config }) (out1 0x64 0xAA) = some .initSequenceViolation ∧
    why (withKbc fun k => { k with expect := .outport }) (out1 0x64 0x99) = some .initSequenceViolation ∧
    why t0 (out1 0x64 0xD4) = some .unrecognizedCommand ∧ why t0 (out1 0x60 0xED) = some .unrecognizedCommand := by decide

/-- ATA-1, ATA-2. -/
theorem test_ata_registers : got t0 0x1F7 = 0x40 ∧ got t0 0x3F6 = 0x40 ∧ got t0 0x1F1 = 0x00 ∧
    (one t0 (out1 0x1F3 0x55)).ata.lba0 = 0x55 ∧ got (withAta fun a => { a with lba0 := 0x55 }) 0x1F3 = 0x55 ∧
    (one t0 (out1 0x1F1 0x77)).ata.features = 0x77 := by decide

/-- ATA-3, ATA-5, ATA-6, E5, ATA-14. -/
theorem test_identify : (one t0 (out1 0x1F7 0xA1)).ata.status = 0xC0 ∧ (one t0 (out1 0x1F7 0xA1)).ata.tag = .identify .atapi ∧
    (one (withAta fun a => { a with drvhead := 0xB0 }) (out1 0x1F7 0xEC)).ata.tag = .identify .disk ∧
    (one t0 (out1 0x1F7 0xEC)).ata.status = 0x41 ∧ (one t0 (out1 0x1F7 0xEC)).ata.error = 4 ∧
    (one (withAta fun a => { a with status := 0x41, error := 4 }) (out1 0x1F7 0xA1)).ata.error = 0 := by decide

/-- ATA-8, ATA-13, ATA-7, ATA-23. -/
theorem test_ata_commands : why (withAta fun a => { a with status := 0xC0, tag := .identify .atapi }) (out1 0x1F7 0x00) = some .busy ∧
    (one (withAta fun a => { a with status := 0x41, error := 4 }) (out1 0x1F7 0x00)).ata.status = 0x41 ∧
    (one t0 (out1 0x1F7 0xA0)).ata.status = 0x48 ∧
    (one (withAta fun a => { a with drvhead := 0xB0 }) (out1 0x1F7 0xA0)).ata.status = 0x41 ∧
    why (cdbState 0) (out1 0x1F7 0xA1) = some .busy := by decide

/-- ATA-4: the worker's flags and sizes (its bytes are a parameter). -/
theorem test_identify_done :
    (one (withAta fun a => { a with status := 0xC0, tag := .identify .atapi }) (.agent .identifyDone)).ata.status = 0x48 ∧
    (one (withAta fun a => { a with status := 0xC0, tag := .identify .atapi }) (.agent .identifyDone)).ata.dsize = 512 := by decide

/-- ATA-11, ATA-15, ATA-16, ATA-21. -/
theorem test_cdb_bytes : why t0 (.trap ⟨.out, .b2, 0x1F0, 1, 0⟩ [0x28, 0]) = some .dataWriteNotRequested ∧
    (one (cdbState 0) (.trap ⟨.out, .b2, 0x1F0, 5, 0⟩ (List.replicate 10 0))).ata.clen = 10 ∧
    why (cdbState 10) (.trap ⟨.out, .b4, 0x1F0, 1, 0⟩ [0, 0, 0, 0]) = some .capacityExceeded ∧
    (one (cdbState 0) (.trap ⟨.out, .b2, 0x1F0, 6, 0⟩ (List.replicate 12 0))).ata.status = 0x40 ∧
    why (cdbState 0) (.trap ⟨.out, .b2, 0x1F0, 6, 0⟩ (0x12 :: List.replicate 11 0)) = some .unrecognizedCommand := by decide

/-- E6, ATA-18, ATA-19, here with a medium of one sector. -/
theorem test_read10 :
    (one (cdbState 0) (.trap ⟨.out, .b4, 0x1F0, 3, 0⟩ [0x28, 0, 0, 0, 0, 0, 0, 0, 2, 0, 0, 0])).ata.status = 0x41 ∧
    (one (cdbState 0) (.trap ⟨.out, .b4, 0x1F0, 3, 0⟩ [0x28, 0, 0, 0, 0, 0, 0, 0, 1, 0, 0, 0])).ata.status = 0x48 ∧
    (one (cdbState 0) (.trap ⟨.out, .b4, 0x1F0, 3, 0⟩ [0x28, 0, 0, 0, 0, 1, 0, 0, 0, 0, 0, 0])).ata.status = 0x40 := by decide

/-- ATA-9, ATA-22, ATA-24: a clamped read leaves the rest of the host's bytes. -/
theorem test_data_read : why t0 (.trap ⟨.inp, .b2, 0x1F0, 1, 0⟩ [0, 0]) = some .readPastData ∧
    why (cdbState 4) (.trap ⟨.inp, .b2, 0x1F0, 1, 0⟩ [0, 0]) = some .readPastData ∧
    (one dataState (.trap ⟨.inp, .b4, 0x1F0, 1, 0⟩ [1, 2, 3, 4])).mem = [(0, 0xA1), (1, 0xA2), (2, 0xA3), (3, 4)] ∧
    (one dataState (.trap ⟨.inp, .b4, 0x1F0, 1, 0⟩ [1, 2, 3, 4])).ata.status = 0x40 ∧
    (one dataState (.trap ⟨.inp, .b2, 0x1F0, 1, 0⟩ [1, 2])).ata.dread = 2 := by decide

/-- ATA-10, ATA-26, ATA-28. -/
theorem test_devctl : (one t0 (out1 0x3F6 0x04)).ata.devctl = 4 ∧
    why (withAta fun a => { a with devctl := 4, status := 0xC0, tag := .identify .atapi }) (out1 0x3F6 0) = some .busy ∧
    (one (withAta fun a => { a with devctl := 4, status := 0x41, error := 4, lba0 := 1 }) (out1 0x3F6 0)).ata.lba0 = 0 ∧
    (one (withAta fun a => { a with devctl := 4, status := 0x41, error := 4 }) (out1 0x3F6 0)).ata.error = 4 := by decide

/-- DMA-2 to DMA-8. -/
theorem test_dma : (one { t0 with dma1 := { t0.dma1 with mask := 0 } } (out1 0xD4 4)).dma1.mask = 0x0F ∧
    (one t0 (out1 0xD4 0)).dma1.mask = 0x0E ∧ (one { t0 with dma1 := { t0.dma1 with mask := 0 } } (out1 0xD4 5)).dma1.mask = 2 ∧
    (one { t0 with dma0 := { t0.dma0 with mask := 0 } } (out1 0x0A 4)).dma0.mask = 1 ∧ (one t0 (out1 0x0A 0xFA)).dma0.mask = 0x0B ∧
    (one { t0 with dma1 := ⟨7, 0, true, 5⟩ } (out1 0xDA 0x55)).dma1 = ⟨7, 0x0F, false, 0⟩ ∧ (one t0 (out1 0x0B 0x4A)).dma0.mode = 0x4A := by
  decide

/-- PCI-3, PCI-4, PCI-11. -/
theorem test_pci_address : (one t0 (.trap ⟨.out, .b4, 0xCF8, 1, 0⟩ [0x03, 0x00, 0x01, 0x80])).pci.addr = 0x80010003 ∧
    (one t0 (.trap ⟨.out, .b4, 0xCF8, 1, 0⟩ [0x03, 0x00, 0x01, 0x80])).pci.curIndex = 32 ∧
    (one t0 (.trap ⟨.out, .b4, 0xCF8, 1, 0⟩ [0x08, 0x08, 0x00, 0x80])).pci.curReg = 2 := by decide

/-- E7, PCI-5, PCI-7, PCI-10. -/
theorem test_pci_data : (one t0 (.trap ⟨.inp, .b2, 0xCFE, 1, 0⟩ [0, 0])).mem = [(0, 0x37), (1, 0x12)] ∧
    why { t0 with pci := { t0.pci with curReg := 63 } } (.trap ⟨.inp, .b4, 0xCFD, 1, 0⟩ [0, 0, 0, 0]) = some .outOfRange ∧
    why { t0 with pci := { t0.pci with curIndex := 3 } } (.trap ⟨.inp, .b2, 0xCFC, 1, 0⟩ [0, 0]) = some .outOfRange := by
  decide

set_option maxRecDepth 4000 in
/-- PCI-10. -/
theorem test_pci_write :
    ((one t0 (.trap ⟨.out, .b4, 0xCFC, 1, 0⟩ [0xEF, 0xBE, 0xAD, 0xDE])).pci.blocks.getD 0 []).getD 3 0 = 0xDE := by
  decide

/-- CMOS-3, CMOS-4. -/
theorem test_cmos : (one t0 (out1 0x70 0x8F)).cmos.idx = 0x0F ∧ (one t0 (out1 0x70 0x8F)).cmos.nmiDis = true ∧
    (one { t0 with cmos := { t0.cmos with idx := 0x7F } } (out1 0x71 1)).cmos.regs.getD 0x7F 0 = 1 ∧
    got { t0 with cmos := { t0.cmos with regs := 0x80 :: t0.cmos.regs } } 0x71 = 0x80 := by decide

/-- SYS-1, E1: the record. -/
theorem test_record : (one t0 (out1 0x64 0xD4)).fatal = some ⟨.unrecognizedCommand, .b, some 0x64, some .out, some .b1, some 1, some 0xD4⟩ ∧
    (one t0 (in1 0x80)).events = [.fatal ⟨.unclaimedPort, .b, some 0x80, some .inp, some .b1, some 1, some 0xEE⟩] := by decide

/-- R161: the lowest claimed port of a range. -/
theorem test_claimed : claimedPort portMap ⟨0x3E, 0x45, .pit⟩ = some 0x40 ∧ claimedPort portMap ⟨0x22, 0x3F, .pit⟩ = none := by decide

/-! ## Witnesses: states and operands that meet the hypotheses of the statements, each clause at a boundary of its range -/

theorem awaits_give (s : State) (i : Input) (hf : s.fatal = none) (hp : s.ports = portMap) (hm : s.mem.wf = true) :
    Awaits (give s i) i [] := ⟨hf, hp, hm, rfl⟩

/-- StepRunsDecoded: a transaction and an agent's turn. -/
theorem test_witness_StepRunsDecoded :
    (give t0 (out1 0x20 0x11)).fatal = none ∧ (give t0 (out1 0x20 0x11)).inputs = .trap ⟨.out, .b1, 0x20, 1, 0⟩ [0x11] :: [] ∧
    (Instr.picIcw1 .primary 0x11).wf = true ∧
    (let t : State := { give t0 (out1 0x20 0x11) with inputs := [], cur := ⟨.out, .b1, 0x20, 1, 0⟩, mem := t0.mem.writeBytes 0 [0x11] }
     decode t0.seq (.port ⟨.out, .b1, 0x20, 1, t.payloadWord⟩) = .ok (.picIcw1 .primary 0x11)) ∧
    (give t0 (.agent .pitTick)).inputs = .agent .pitTick :: [] := ⟨rfl, rfl, rfl, by decide, rfl⟩

/-- NothingFollowsFatal, FatalStepKeepsState: a step that raises, and the state it ends in. -/
theorem test_witness_FatalStepKeepsState :
    (give t0 (in1 0x80)).fatal = none ∧ step (give t0 (in1 0x80)) = .next (one t0 (in1 0x80)) ∧
    (one t0 (in1 0x80)).fatal = some ⟨.unclaimedPort, .b, some 0x80, some .inp, some .b1, some 1, some 0xEE⟩ ∧
    (give t0 (in1 0x80)).inputs ≠ [] ∧ t0.inputs = [] := ⟨rfl, rfl, by decide, by decide, rfl⟩

/-- DecodeEncode: one instruction of each state condition and of each well-formedness check, at the last value of its operand. -/
theorem test_witness_DecodeEncode : c0.ports = portMap ∧
    (∀ i ∈ [Instr.picIcw1 .secondary 0xFF, .picOcw3 .primary 0x6F, .picOcw1 .primary 0xFF, .pitCw .c2 3 7 true, .pitRLive .c2,
        .kbdReset, .ataDataWrite .w4 0xFFFFFFFF, .ataDataRead .w2 1, .pciDataWrite .b1 3 0xFF, .pciDataWrite .b4 0 0xFFFFFFFF,
        .cdbRead10 0xFFFFFFFF 0xFFFF], i.wf = true ∧ i.rowCondition c0 = true) ∧
    (Instr.picIcw2 .primary 0xFF).rowCondition (atPic .icw2) = true ∧ (Instr.picIcw3 .primary 0).rowCondition (atPic .icw3) = true ∧
    (Instr.picIcw4 .primary 0).rowCondition (atPic .icw4) = true ∧
    (Instr.pitWLsb .c1 0xFF).rowCondition (atPit 1 true false false) = true ∧
    (Instr.pitWMsb .c1 0xFF).rowCondition (atPit 2 true false false) = true ∧
    (Instr.pitWLow .c1 0xFF).rowCondition (atPit 3 true false false) = true ∧
    (Instr.pitWHigh .c1 0xFF).rowCondition (atPit 3 false false false) = true ∧
    (Instr.pitDataRead .c1).rowCondition (atPit 0 true true true) = true ∧
    (Instr.pitRLatched .c1).rowCondition (atPit 1 true false true) = true ∧
    (Instr.kbcConfigPayload 0xFF).rowCondition { c0 with kbcExpect := .config } = true ∧
    (Instr.kbcOutportPayload 0xFF).rowCondition { c0 with kbcExpect := .outport } = true ∧
    (Instr.kbdScansetArg 0xFF).rowCondition { c0 with kbdExpect := .scansetArg } = true := by decide

/-- DecodeWellFormed. -/
theorem test_witness_DecodeWellFormed :
    decode c0 (.port ⟨.out, .b2, 0xCFF, 1, 0x1FFFF⟩) = .ok (.pciDataWrite .b2 3 0xFFFF) := by decide

/-- UnclaimedPortIsFatal: ports on both sides of the ends of a range. -/
theorem test_witness_UnclaimedPortIsFatal : Awaits (give t0 (in1 0x10)) (in1 0x10) [] ∧
    why t0 (in1 0x10) = some .unclaimedPort ∧ why t0 (in1 0x1F) = some .unclaimedPort ∧ why t0 (in1 0x0F) = some .unmappedAccess ∧
    why t0 (in1 0xDF) = some .unclaimedPort ∧ why t0 (in1 0xD00) = some .unclaimedPort ∧ why t0 (in1 0xCF7) = some .unclaimedPort ∧
    why t0 (in1 0xFFFF) = some .unclaimedPort := by
  exact ⟨awaits_give _ _ rfl rfl rfl, by decide, by decide, by decide, by decide, by decide, by decide, by decide⟩

/-- Accesses one step outside a row of R166 in port, direction, size or count, and at the ends of the ranges no row accepts. -/
def unmapped : List Descriptor :=
  [⟨.inp, .b1, 0x170, 1, 0⟩, ⟨.out, .b2, 0x177, 1, 0⟩, ⟨.out, .b1, 0x376, 1, 0⟩, ⟨.inp, .b1, 0x377, 1, 0⟩, ⟨.inp, .b1, 0x3F7, 1, 0⟩,
    ⟨.inp, .b1, 0x00, 1, 0⟩, ⟨.inp, .b1, 0x0F, 1, 0⟩, ⟨.inp, .b1, 0xC0, 1, 0⟩, ⟨.inp, .b1, 0xDE, 1, 0⟩,
    ⟨.out, .b1, 0x00, 1, 0⟩, ⟨.out, .b1, 0x09, 1, 0⟩, ⟨.out, .b1, 0x0C, 1, 0⟩, ⟨.out, .b1, 0x0F, 1, 0⟩,
    ⟨.out, .b1, 0xC0, 1, 0⟩, ⟨.out, .b1, 0xD5, 1, 0⟩, ⟨.out, .b1, 0xDE, 1, 0⟩,
    ⟨.out, .b2, 0xCF8, 1, 0⟩, ⟨.out, .b4, 0xCF9, 1, 0⟩, ⟨.inp, .b1, 0xCFB, 1, 0⟩,
    ⟨.inp, .b1, 0xCFC, 0, 0⟩, ⟨.inp, .b1, 0xCFF, 2, 0⟩,
    ⟨.inp, .b1, 0x20, 1, 0⟩, ⟨.inp, .b1, 0xA0, 1, 0⟩, ⟨.inp, .b1, 0x43, 1, 0⟩, ⟨.inp, .b1, 0x70, 1, 0⟩,
    ⟨.out, .b1, 0x20, 2, 0⟩, ⟨.out, .b2, 0x21, 1, 0⟩, ⟨.inp, .b1, 0x42, 0, 0⟩, ⟨.inp, .b1, 0x60, 0, 0⟩, ⟨.out, .b4, 0x64, 1, 0⟩,
    ⟨.out, .b2, 0x0B, 1, 0⟩, ⟨.out, .b4, 0xDA, 1, 0⟩, ⟨.out, .b1, 0x71, 0xFFFFFFFF, 0⟩, ⟨.inp, .b1, 0x1F0, 1, 0⟩,
    ⟨.out, .b2, 0x1F0, 0, 0⟩, ⟨.inp, .b2, 0x1F7, 1, 0⟩, ⟨.out, .b1, 0x3F6, 2, 0⟩, ⟨.inp, .b4, 0xCF8, 2, 0⟩, ⟨.out, .b4, 0xCF8, 0, 0⟩]

theorem test_witness_UnmappedAccessIsFatal : (∀ d : Descriptor, Awaits (give t0 (.trap d [])) (.trap d []) []) ∧
    (∀ d ∈ unmapped, why t0 (.trap d []) = some .unmappedAccess) ∧ t0.mem.wf = true :=
  ⟨fun _ => awaits_give _ _ rfl rfl rfl, by decide, rfl⟩

/-- The invariant holds of the tests' first state. -/
theorem t0_inv : t0.Inv where
  params_wf := tp_wf
  ports_fixed := rfl
  mem_wf := rfl
  pic0_inv := show (0 : Byte) &&& 0 = 0 by decide
  pic1_inv := show (0 : Byte) &&& 0 = 0 by decide
  fifo_le := Nat.zero_le _
  ata_inv :=
    { dbuf_length := List.length_replicate
      cdb_length := rfl
      dread_le := Nat.le_refl _
      dsize_le := Nat.zero_le _
      not_bsy_drq := show ¬ ((0x40 : Byte).getLsbD 7 = true ∧ _) by decide
      cdb_phase := fun h => by cases h
      identify_phase := fun _ h => by cases h
      data_phase := fun h => absurd (show (0x40 : Byte).getLsbD 3 = true from h) (by decide)
      err_abrt := fun h => absurd (show (0x40 : Byte).getLsbD 0 = true from h) (by decide)
      stuck_bits := show (0x40 : Byte) &&& 0x36 = 0 by decide }
  dma0_inv := show (0x0F : Byte) &&& 0xF0 = 0 by decide
  dma1_inv := show (0x0F : Byte) &&& 0xF0 = 0 by decide
  blocks_length := rfl
  block_length := by
    intro b hb
    obtain ⟨i, -, rfl⟩ := List.mem_map.1 hb
    unfold pciInitBlock
    split
    · show (List.replicate 252 (0 : Byte)).length + 1 + 1 + 1 + 1 = 256
      rw [List.length_replicate]
    · split <;> exact List.length_replicate
  regs_length := List.length_replicate

/-- InvariantKept, ConstantsAndHistoryKept, FifoInOrder (it grows), DmaUnobservable, UnreadPicFields: a state with the invariant and
its step. -/
theorem test_witness_InvariantKept : (give t0 (out1 0x64 0xAB)).Inv ∧
    step (give t0 (out1 0x64 0xAB)) = .next (one t0 (out1 0x64 0xAB)) ∧ (one t0 (out1 0x64 0xAB)).kbc.fifo = [0] :=
  ⟨{ t0_inv with }, rfl, by decide⟩

/-- FifoInOrder: it shrinks. -/
theorem test_witness_FifoInOrder :
    step (give (withKbc fun k => { k with fifo := [7] }) (in1 0x60)) = .next (one (withKbc fun k => { k with fifo := [7] }) (in1 0x60)) ∧
    (one (withKbc fun k => { k with fifo := [7] }) (in1 0x60)).kbc.fifo = [] := ⟨rfl, by decide⟩

/-- InvariantAtReset, PciInitialContents, PostResetFacts: parameters within R6's bounds, and a block that is neither of the open two. -/
theorem test_witness_params : tp.wf ∧ 1 < tp.pciNumBlocks ∧ 1 ≠ tp.pciDisplayIndex ∧ tp.pciDisplayIndex + 1 = tp.pciNumBlocks :=
  ⟨tp_wf, by decide, by decide, rfl⟩

/-- ReachableAta: reachable states in the CDB phase, in an IDENTIFY, in a data phase, and with an error. -/
theorem test_witness_ReachableAta :
    (∃ s, Reachable s ∧ s.ata.tag = .cdbIncoming) ∧ (∃ s, Reachable s ∧ s.ata.tag = .identify .atapi) ∧
    (∃ s, Reachable s ∧ s.ata.status.getLsbD 3 = true ∧ s.ata.tag = .none) ∧ (∃ s, Reachable s ∧ s.ata.status.getLsbD 0 = true) := by
  refine ⟨⟨one t0 (out1 0x1F7 0xA0), .step _ _ (.reset tp tp_wf [out1 0x1F7 0xA0]) rfl, by decide⟩,
    ⟨one t0 (out1 0x1F7 0xA1), .step _ _ (.reset tp tp_wf [out1 0x1F7 0xA1]) rfl, by decide⟩, ?_,
    ⟨one t0 (out1 0x1F7 0xEC), .step _ _ (.reset tp tp_wf [out1 0x1F7 0xEC]) rfl, by decide⟩⟩
  refine ⟨one (one t0 (out1 0x1F7 0xA1)) (.agent .identifyDone), ?_, by decide, by decide⟩
  have h : Reachable (give (one t0 (out1 0x1F7 0xA1)) (.agent .identifyDone)) :=
    .step _ _ (.reset tp tp_wf [out1 0x1F7 0xA1, .agent .identifyDone]) rfl
  exact .step _ _ h rfl

/-- InterruptSources: the timer on IRQ0, a response on IRQ1. -/
theorem test_witness_InterruptSources :
    (let s : State := { withPit fun c => { c with mode := 2, count := 1, nullCount := false } with pic0 := { t0.pic0 with imr := 0 } }
     tp.pitTickModes.getLsbD s.pit0.mode.toNat = true ∧ exec .pitTick s = .next (pitTick s) ∧ s.pic0.irr.getLsbD 0 = false ∧ (pitTick s).pic0.irr.getLsbD 0 = true) ∧
    (let s : State := { withKbc fun k => { k with config := 1 } with pic0 := { t0.pic0 with imr := 0 } }
     exec .kbdEnableScan s = .next (enqueued 0xFA s) ∧ s.pic0.irr.getLsbD 1 = false ∧
       (enqueued 0xFA s).pic0.irr.getLsbD 1 = true) := ⟨⟨by decide, rfl, by decide, by decide⟩, rfl, by decide, by decide⟩

/-- RaiseAdmission: the ends of each unit's levels, and the first number past them. -/
theorem test_witness_RaiseAdmission :
    (∀ n ∈ [7, 8, 15, 16], decide (n > 15) = (n == 16)) ∧
    (match picRaise 7 { t0 with pic0 := { t0.pic0 with imr := 0 } } with | .ok t => t.pic0.irr | _ => 0) = 0x80 ∧
    (match picRaise 8 { t0 with pic1 := { t0.pic1 with imr := 0 } } with | .ok t => t.pic1.irr | _ => 0) = 0x01 ∧
    (match picRaise 15 { t0 with pic1 := { t0.pic1 with imr := 0 } } with | .ok t => t.pic1.irr | _ => 0) = 0x80 ∧
    (match picRaise 16 t0 with | .ok _ => false | .error x => x == .outOfRange) = true := by decide

/-- UnreadPicFields: a unit that differs in every unread place. -/
theorem test_witness_UnreadPicFields :
    let p := t0.pic0
    let q : Pic := { p with icw1 := 0xFC, icw3 := 0xFF, icw4 := 0xFD, poll := true, smm := true }
    p ≠ q ∧ p.icw1 &&& 0x03 = q.icw1 &&& 0x03 ∧ p.icw4 &&& 0x02 = q.icw4 &&& 0x02 ∧
      q = { p with icw1 := q.icw1, icw3 := q.icw3, icw4 := q.icw4, poll := q.poll, smm := q.smm } := by decide

/-- CmosRegistersHold, CmosAccess: the last register. -/
theorem test_witness_CmosRegistersHold :
    let s : State := { t0 with cmos := { t0.cmos with idx := 0x7F } }
    s.cmos.regs.length = 128 ∧ s.mem.wf = true ∧
    exec (.cmosDataWrite 1) s = .next { s with cmos := { s.cmos with regs := s.cmos.regs.set 0x7F 1 } } ∧
      (s.cmos.regs.set 0x7F 1).getD 0x7F 0 ≠ s.cmos.regs.getD 0x7F 0 := ⟨List.length_replicate, rfl, rfl, by decide⟩

/-- StartUpInAnyOrder: another order. -/
theorem test_witness_StartUpInAnyOrder : registrations.reverse.Perm registrations ∧ registrations.reverse ≠ registrations :=
  ⟨List.reverse_perm _, by decide⟩

/-- RegistrationErrors: a range whose last port alone is claimed, and the ATA registration. -/
theorem test_witness_RegistrationErrors :
    (t0.fatal = none ∧ (0x1F : BitVec 16) ≤ 0x20 ∧ handlerAt t0.ports 0x20 ≠ none ∧ handlerAt t0.ports 0x1F = none) ∧
    (∀ q : BitVec 16, 0x1F ≤ q → q < 0x20 → handlerAt t0.ports q = none) ∧
    (∃ g ∈ registrations, g.init = some .ata) := by
  refine ⟨by decide, fun q h1 h2 => ?_, by decide⟩
  have h : q = 0x1F := by bv_omega
  subst h; decide

/-- The PIC statements: initialized with nothing and with one level in service, mid-sequence, with nothing and one level pending. -/
theorem test_witness_pic : t0.pic0.init = .icw1 ∧ t0.pic0.isr = 0 ∧ (withPic fun p => { p with isr := 0x80 }).pic0.isr ≠ 0 ∧
    t0.mem.wf = true ∧ t0.pic0.irr &&& ~~~ t0.pic0.imr = 0 ∧
    (let s := withPic fun p => { p with irr := 0x80, imr := 0x7F }
     s.pic0.irr &&& ~~~ s.pic0.imr ≠ 0) := by decide

/-- PicCommandPort: ready, and in each other word of a sequence. -/
theorem test_witness_PicCommandPort (x : PicInit) (b : Byte) :
    Awaits (give (withPic fun p => { p with init := x }) (out1 0x20 b)) (out1 0x20 b) [] ∧
    (give (withPic fun p => { p with init := x }) (out1 0x20 b)).pic0.init = x := ⟨awaits_give _ _ rfl rfl rfl, rfl⟩

/-- PicDataPort: each word of a sequence, and the read. -/
theorem test_witness_PicDataPort (x : PicInit) (b : Byte) :
    let s := withPic fun p => { p with init := x }
    Awaits (give s (out1 0x21 b)) (out1 0x21 b) [] ∧ Awaits (give s (in1 0x21)) (in1 0x21) [] ∧
      Awaits (give s (out1 0xA1 b)) (out1 0xA1 b) [] ∧ s.pic0.init = x :=
  ⟨awaits_give _ _ rfl rfl rfl, awaits_give _ _ rfl rfl rfl, awaits_give _ _ rfl rfl rfl, rfl⟩

/-- PitCommandPort: a byte at each end of the three classes, and DmaWrites' ports. -/
theorem test_witness_PitCommandPort (b : Byte) : Awaits (give t0 (out1 0x43 b)) (out1 0x43 b) [] ∧
    (∀ b ∈ [(0xC0 : Byte), 0xFF], b.toNat / 64 = 3) ∧ (∀ b ∈ [(0x00 : Byte), 0x8F], b.toNat / 64 ≠ 3 ∧ b.toNat / 16 % 4 = 0) ∧
    (∀ b ∈ [(0x10 : Byte), 0xBF], b.toNat / 64 ≠ 3 ∧ b.toNat / 16 % 4 ≠ 0) ∧
    ∀ p : BitVec 16, Awaits (give t0 (out1 p b)) (out1 p b) [] :=
  ⟨awaits_give _ _ rfl rfl rfl, by decide, by decide, by decide, fun _ => awaits_give _ _ rfl rfl rfl⟩

/-- R241: bit 0 of a read-back and bits 3:0 of a latch choose nothing. R382, R383: nor do bits 7:3 of a mask byte and a reset's byte. -/
theorem test_ignored_bits : decodePitCommand 0xE3 = .pitReadback true false 1 ∧ decodePitCommand 0x4F = .pitLatch .c1 ∧
    (one t0 (out1 0xD4 0xF9)).dma1.mask = 0x0D ∧ (one t0 (out1 0x0D 0xFF)).dma0.mask = 0x0F := by decide

/-- The PIT statements: each access mode, latches pending or not, and a channel at 1, past 1 and not counting. -/
theorem test_witness_pit (acc : BitVec 2) (low sl cl : Bool) (b : Byte) :
    let s := withPit fun c => { c with access := acc, lowNext := low, slPend := sl, clPend := cl }
    s.pit0.access = acc ∧ s.pit0.slPend = sl ∧ s.pit0.clPend = cl ∧ s.mem.wf = true ∧
      Awaits (give s (out1 0x40 b)) (out1 0x40 b) [] ∧ Awaits (give s (in1 0x40)) (in1 0x40) [] :=
  ⟨rfl, rfl, rfl, rfl, awaits_give _ _ rfl rfl rfl, awaits_give _ _ rfl rfl rfl⟩

theorem test_witness_PitTick : tp.pitTickModes.getLsbD 2 = true ∧ tp.pitTickModes.getLsbD 3 = false ∧
    (∀ v : Half,
      let q := (withPit fun c => { c with mode := 2, count := v, nullCount := false }).pit0
      q.nullCount = false ∧ q.mode = 2 ∧ q.count = v) ∧ t0.pit0.nullCount = true :=
  ⟨by decide, by decide, fun _ => ⟨rfl, rfl, rfl⟩, rfl⟩

/-- The KBC statements: an empty FIFO, one with room for one byte, a full one, and each expectation. -/
theorem test_witness_kbc : t0.kbc.fifo = [] ∧ t0.kbc.expect = .none ∧ t0.kbc.devExpect = .none ∧ t0.mem.wf = true ∧
    t0.params.kbcForward = true ∧ t0.kbc.fifo.length + 1 < t0.params.kbcFifoCap ∧
    (withKbc fun k => { k with fifo := [1, 2] }).kbc.fifo.length + 1 = tp.kbcFifoCap ∧
    (withKbc fun k => { k with fifo := [1, 2, 3] }).kbc.fifo.length = tp.kbcFifoCap ∧
    (withKbc fun k => { k with fifo := [1, 2] }).kbc.fifo = 1 :: [2] := by decide

theorem test_witness_KbcPorts (e : KbcExpect) (d : KbdExpect) (fw : Bool) (b : Byte) :
    let s : State := { withKbc fun k => { k with expect := e, devExpect := d } with params := { tp with kbcForward := fw } }
    Awaits (give s (out1 0x64 b)) (out1 0x64 b) [] ∧ Awaits (give s (out1 0x60 b)) (out1 0x60 b) [] ∧ s.kbc.expect = e ∧
      s.kbc.devExpect = d ∧ s.params.kbcForward = fw :=
  ⟨awaits_give _ _ rfl rfl rfl, awaits_give _ _ rfl rfl rfl, rfl, rfl, rfl⟩

/-- AtaCommands, AtaCommandPort: idle with each drive, and busy in both ways. -/
theorem test_witness_AtaCommands : t0.ata.status.getLsbD 7 = false ∧ t0.ata.tag = .none ∧ t0.ata.drvhead.getLsbD 4 = false ∧
    (withAta fun a => { a with drvhead := 0x10 }).ata.drvhead.getLsbD 4 = true ∧
    (withAta fun a => { a with status := 0xC0 }).ata.status.getLsbD 7 = true ∧ (cdbState 0).ata.tag ≠ .none := by decide

theorem test_witness_AtaCommandPort (b : Byte) : Awaits (give t0 (out1 0x1F7 b)) (out1 0x1F7 b) [] ∧
    Awaits (give (cdbState 0) (out1 0x1F7 b)) (out1 0x1F7 b) [] := ⟨awaits_give _ _ rfl rfl rfl, awaits_give _ _ rfl rfl rfl⟩

/-- AtaCdbBytes, AtaCdbRuns: one CDB byte short of twelve, twelve, and one past. -/
theorem test_witness_AtaCdb : (cdbState 9).ata.status.getLsbD 3 = true ∧ (cdbState 9).ata.tag = .cdbIncoming ∧
    (cdbState 9).ata.cdb.length = 12 ∧ (cdbState 9).ata.clen + DataWidth.w2.size.bytes * (1 : BitVec 32).toNat = 11 ∧
    (cdbState 8).ata.clen + DataWidth.w4.size.bytes * (1 : BitVec 32).toNat = 12 ∧
    (cdbState 11).ata.clen + DataWidth.w2.size.bytes * (1 : BitVec 32).toNat = 13 ∧
    t0.ata.status.getLsbD 3 = false ∧ (withAta fun a => { a with status := 0x48 }).ata.tag ≠ .cdbIncoming := by decide

/-- AtaCdbRuns: CDBs of each opcode, whole and in memory; a READ(10) in range, one past the medium, one past the buffer. -/
theorem test_witness_AtaCdbRuns :
    let s (cdb : List Byte) : State := withAta fun a => { a with status := 0x48, tag := .cdbIncoming, clen := 8, cdb := cdb }
    let read (cnt : Byte) : List Byte := [0x28, 0, 0, 0, 0, 0, 0, 0, cnt, 0, 0, 0]
    (s (read 1)).ata.cdb.getD 0 0 = 0x28 ∧ 0 * 2048 + 1 * 2048 ≤ tp.cdSize ∧ 1 * 2048 ≤ tp.ataBufCap ∧
    tp.cdSize < 0 * 2048 + 2 * 2048 ∧ tp.ataBufCap < 2 * 2048 ∧
    (let big : State := { s (read 2) with params := { tp with cdSize := 4096 } }
     0 * 2048 + 2 * 2048 ≤ big.params.cdSize ∧ big.params.ataBufCap < 2 * 2048) ∧
    (s (List.replicate 12 0)).ata.cdb.getD 0 0 = 0x00 ∧ (s (0x12 :: List.replicate 11 0)).ata.cdb.getD 0 0 = 0x12 := by decide

/-- AtaCdbCommands: the last sector, one sector past, no sector at the end, and a transfer past the buffer. -/
theorem test_witness_AtaCdbCommands :
    (0 : BitVec 32).toNat * 2048 + (1 : BitVec 16).toNat * 2048 = tp.cdSize ∧ (1 : BitVec 16).toNat * 2048 = tp.ataBufCap ∧
    tp.cdSize < (0 : BitVec 32).toNat * 2048 + (2 : BitVec 16).toNat * 2048 ∧
    (1 : BitVec 32).toNat * 2048 + (0 : BitVec 16).toNat * 2048 = tp.cdSize ∧
    t0.ata.dbuf.length = tp.ataBufCap ∧ tp.cdImage.length = tp.cdSize :=
  ⟨by decide, by decide, by decide, by decide, List.length_replicate, List.length_replicate⟩

/-- AtaIdentifyDone: a worker, a buffer that holds its block, and no worker. -/
theorem test_witness_AtaIdentifyDone :
    (withAta fun a => { a with tag := .identify .disk }).ata.tag = .identify .disk ∧ 512 ≤ t0.ata.dbuf.length ∧
    ∀ u, t0.ata.tag ≠ .identify u :=
  ⟨rfl, by rw [show t0.ata.dbuf.length = 2048 from List.length_replicate]; decide, fun _ h => by cases h⟩

/-- AtaDataRead: no data phase, the CDB phase, an empty buffer, and data with one request short of the end and one past it. -/
theorem test_witness_AtaDataRead : t0.ata.status.getLsbD 3 = false ∧ (cdbState 0).ata.tag ≠ .none ∧ t0.ata.dread = t0.ata.dsize ∧
    dataState.ata.status.getLsbD 3 = true ∧ dataState.ata.tag = .none ∧ dataState.ata.dread < dataState.ata.dsize ∧
    dataState.ata.dsize ≤ dataState.ata.dbuf.length ∧ dataState.mem.wf = true ∧
    DataWidth.w2.size.bytes * (1 : BitVec 32).toNat < dataState.ata.dsize - dataState.ata.dread ∧
    ¬ DataWidth.w4.size.bytes * (1 : BitVec 32).toNat < dataState.ata.dsize - dataState.ata.dread := by
  refine ⟨by decide, by decide, rfl, by decide, rfl, by decide, ?_, rfl, by decide, by decide⟩
  show 3 ≤ (List.replicate 2045 (0 : Byte)).length + 3
  exact Nat.le_add_left _ _

/-- AtaDeviceControl: a falling edge, with and without a worker, and none. -/
theorem test_witness_AtaDeviceControl :
    (withAta fun a => { a with devctl := 0x04 }).ata.devctl.getLsbD 2 = true ∧ (0xFB : Byte).getLsbD 2 = false ∧
    (withAta fun a => { a with devctl := 0x04, tag := .identify .disk }).ata.tag = .identify .disk ∧
    t0.ata.devctl.getLsbD 2 = false ∧ (0x04 : Byte).getLsbD 2 = true := by decide

/-- PciData: the last byte of a block and one past it, the last block and one past it. -/
theorem test_witness_PciData :
    let s : State := { t0 with pci := { t0.pci with curReg := 63, curIndex := 2 } }
    s.pci.curReg.toNat * 4 + (3 : BitVec 2).toNat + Size.b1.bytes = 256 ∧ s.pci.curReg.toNat * 4 + (3 : BitVec 2).toNat + Size.b2.bytes = 257 ∧
    s.pci.curIndex < s.params.pciNumBlocks ∧ s.params.pciNumBlocks ≤ s.pci.curIndex + 1 ∧ s.mem.wf = true ∧
    (s.pci.blocks.getD 2 []).length = 256 := by
  refine ⟨by decide, by decide, by decide, by decide, rfl, ?_⟩
  exact List.length_replicate

end Sys2Proof.Tests
end

section
/-! SUPPORT. The state family (10_state.md): what no step changes or takes back, and the values after start-up. -/

namespace Sys2Proof.Machine

/-! ## Record updates the shared operations come to

A result that succeeds is the state it started from with one device replaced; said once here, so that a proof about any other field
needs no second case split. -/

theorem picCommand_cases {u : PicUnit} {f : Pic → Pic} {s t : State} (h : picCommand u f s = .ok t) : t = s.setPic u (f (s.pic u)) := by
  by_cases hi : (s.pic u).init = .icw1
  · rw [picCommand_ok hi] at h; cases h; rfl
  · rw [picCommand_error hi] at h; cases h

theorem pitWrite_cases {c : PitChan} {f : Pit → Pit} {s t : State} (h : pitWrite c f s = .ok t) : t = s.setPit c (f (s.pit c)) := by
  unfold pitWrite at h
  split at h
  · cases h
  · cases h; rfl

theorem pitRead_cases {c : PitChan} {f : State → State} {s t : State} (h : pitRead c f s = .ok t) : t = f s := by
  unfold pitRead at h
  split at h
  · cases h
  · cases h; rfl

theorem enqueue_cases {b : Byte} {s t : State} (h : enqueue b s = .ok t) : t = enqueued b s := by
  by_cases hf : s.kbc.fifo.length = s.params.kbcFifoCap
  · rw [enqueue_error hf] at h; cases h
  · rw [enqueue_ok hf] at h; cases h; rfl

theorem kbcCommand_cases {s t : State} {r : Result} (h : kbcCommand s r = .ok t) : r = .ok t := by
  unfold kbcCommand at h
  split at h
  · exact h
  · cases h

theorem pciAccess_cases {size : Size} {lane : BitVec 2} {r s t : State} (h : pciAccess size lane r s = .ok t) : t = r := by
  unfold pciAccess at h
  split at h
  · cases h
  · cases h; rfl

theorem ataCommand_cases {s t : State} {f : Ata → Ata} (h : ataCommand s f = .ok t) : t = { s with ata := f s.ata } := by
  unfold ataCommand at h
  split at h
  · cases h
  · cases h; rfl

/-- 44_ata.md R352 changes the channel alone. -/
theorem cdbRead10_ata_only {lba : BitVec 32} {cnt : BitVec 16} {s t : State} (h : cdbRead10 lba cnt s = .ok t) :
    t = { s with ata := t.ata } := by
  unfold cdbRead10 at h
  dsimp only at h
  split at h
  · cases h; rfl
  · split at h
    · cases h
    · split at h
      · cases h; rfl
      · cases h; rfl

/-- R351, R353: whichever command the twelve bytes are, the channel alone changes. -/
theorem cdbExecute_ata_only {s t : State} (h : cdbExecute s = .ok t) : t = { s with ata := t.ata } := by
  unfold cdbExecute at h
  dsimp only at h
  split at h
  · exact (cdbRead10_ata_only h).trans rfl
  · cases h; rfl
  · cases h

/-- R341, the twelfth byte and the command it starts included. -/
theorem ataDataWrite_ata_only {n : Nat} {s t : State} (h : ataDataWrite n s = .ok t) : t = { s with ata := t.ata } := by
  unfold ataDataWrite at h
  dsimp only at h
  split at h
  · cases h
  · split at h
    · cases h
    · split at h
      · exact (cdbExecute_ata_only h).trans rfl
      · cases h; rfl

theorem ataDevctl_ata_only {b : Byte} {s t : State} (h : ataDevctl b s = .ok t) : t = { s with ata := t.ata } := by
  unfold ataDevctl at h
  split at h
  · split at h
    · cases h
    · cases h; rfl
  · cases h; rfl

/-- R360: the channel, and the host's bytes. -/
theorem ataDataRead_cases {n : Nat} {s t : State} (h : ataDataRead n s = .ok t) :
    ∃ (a : Ata) (bs : List Byte), t = { s with ata := a }.reply bs := by
  unfold ataDataRead at h
  dsimp only at h
  split at h
  · cases h
  · cases h; exact ⟨_, _, rfl⟩

/-- 42_pit.md R244 on one channel, when its select bit `sel` is set. -/
theorem readbackChan_pit_only (countN statusN sel : Bool) (c : PitChan) (s : State) : ∃ (p q r : Pit) (n : Nat),
    (if sel then readbackChan countN statusN c s else s) = { s with pit0 := p, pit1 := q, pit2 := r, draws := n } := by
  cases sel with
  | false => exact ⟨s.pit0, s.pit1, s.pit2, s.draws, rfl⟩
  | true =>
    obtain ⟨out, n, h⟩ := readbackChan_spec countN statusN c s
    rw [if_pos rfl, h]
    cases c <;> exact ⟨_, _, _, n, rfl⟩

/-- R244 whatever channels it selects: only the timer and the draw counter change. -/
theorem readbackAll_pit_only (countN statusN : Bool) (sel : BitVec 3) (s : State) :
    ∃ (p q r : Pit) (n : Nat), readbackAll countN statusN sel s = { s with pit0 := p, pit1 := q, pit2 := r, draws := n } := by
  unfold readbackAll
  dsimp only
  obtain ⟨_, _, _, _, h0⟩ := readbackChan_pit_only countN statusN (sel.getLsbD 0) .c0 s
  rw [h0]
  obtain ⟨_, _, _, _, h1⟩ := readbackChan_pit_only countN statusN (sel.getLsbD 1) .c1 _
  rw [h1]
  obtain ⟨_, _, _, _, h2⟩ := readbackChan_pit_only countN statusN (sel.getLsbD 2) .c2 _
  exact ⟨_, _, _, _, h2⟩

/-! ## What an instruction's meaning neither changes nor takes back -/

/-- `t` has the port map, parameters and inputs to come of `s`, and its events from `s`'s on. -/
structure State.Continues (s t : State) : Prop where
  ports_eq : t.ports = s.ports
  params_eq : t.params = s.params
  inputs_eq : t.inputs = s.inputs
  events_extend : ∃ es, t.events = s.events ++ es

namespace State.Continues

theorem of_same_events {s t : State} (hp : t.ports = s.ports) (hq : t.params = s.params) (hi : t.inputs = s.inputs)
    (he : t.events = s.events) : s.Continues t := ⟨hp, hq, hi, [], by rw [he, List.append_nil]⟩

theorem refl (s : State) : s.Continues s := of_same_events rfl rfl rfl rfl

theorem trans {s t u : State} (h : s.Continues t) (k : t.Continues u) : s.Continues u := by
  obtain ⟨es, he⟩ := h.events_extend
  obtain ⟨fs, hf⟩ := k.events_extend
  exact ⟨k.ports_eq.trans h.ports_eq, k.params_eq.trans h.params_eq, k.inputs_eq.trans h.inputs_eq, es ++ fs,
    by rw [hf, he, List.append_assoc]⟩

theorem setPic (s : State) (u : PicUnit) (p : Pic) : s.Continues (s.setPic u p) := of_same_events (by simp) (by simp) (by simp) (by simp)

theorem setPit (s : State) (c : PitChan) (p : Pit) : s.Continues (s.setPit c p) := of_same_events (by simp) (by simp) (by simp) (by simp)

theorem setDma (s : State) (k : DmaUnit) (d : Dma) : s.Continues (s.setDma k d) := of_same_events (by simp) (by simp) (by simp) (by simp)

theorem setAta (s : State) (a : Ata) : s.Continues { s with ata := a } := of_same_events rfl rfl rfl rfl

theorem reply (s : State) (bs : List Byte) : s.Continues (s.reply bs) := of_same_events rfl rfl rfl rfl

theorem enqueued (b : Byte) (s : State) : s.Continues (enqueued b s) := of_same_events rfl rfl rfl rfl

theorem pitTick (s : State) : s.Continues (pitTick s) := of_same_events rfl rfl rfl rfl

theorem readbackAll (countN statusN : Bool) (sel : BitVec 3) (s : State) : s.Continues (readbackAll countN statusN sel s) := by
  obtain ⟨_, _, _, _, h⟩ := readbackAll_pit_only countN statusN sel s
  rw [h]
  exact of_same_events rfl rfl rfl rfl

theorem raiseFatal (x : FatalReason) (s : State) : s.Continues (raiseFatal x s) := ⟨rfl, rfl, rfl, _, rfl⟩

/-- 41_pic.md R214: a delivery appends its one event. -/
theorem deliverFrom (u : PicUnit) (s : State) : s.Continues (deliverFrom u s) := by
  unfold Machine.deliverFrom
  split
  · exact refl s
  · exact (setPic s u _).trans ⟨rfl, rfl, rfl, _, rfl⟩

theorem picTick (ie : Bool) (s : State) : s.Continues (if ie then Machine.deliverFrom .secondary (Machine.deliverFrom .primary s) else s) := by
  cases ie with
  | false => exact refl s
  | true => exact (deliverFrom .primary s).trans (deliverFrom .secondary _)

/-- A step that raises appends its event, and a step that does not ends in its result's state. -/
theorem commit {s t : State} {r : Result} (hc : commit s r = .next t) (hr : ∀ u, r = .ok u → s.Continues u) : s.Continues t := by
  cases r with
  | ok u => cases hc; exact hr _ rfl
  | error x => cases hc; exact raiseFatal x s

theorem bind {s t : State} {r : Result} {f : State → Result} (h : r >>= f = .ok t) (hr : ∀ u, r = .ok u → s.Continues u)
    (hf : ∀ u, f u = .ok t → u.Continues t) : s.Continues t := by
  cases r with
  | ok u => exact (hr u rfl).trans (hf u h)
  | error x => cases h

theorem picCommand {s t : State} {u : PicUnit} {f : Pic → Pic} (h : picCommand u f s = .ok t) : s.Continues t :=
  picCommand_cases h ▸ setPic s u _

theorem pitWrite {s t : State} {c : PitChan} {f : Pit → Pit} (h : pitWrite c f s = .ok t) : s.Continues t :=
  pitWrite_cases h ▸ setPit s c _

theorem enqueue {s t : State} {b : Byte} (h : enqueue b s = .ok t) : s.Continues t := enqueue_cases h ▸ enqueued b s

theorem setKbc {s t : State} {f : Kbc → Kbc} (h : setKbc f s = .ok t) : s.Continues t := by
  cases h; exact of_same_events rfl rfl rfl rfl

/-- 43_kbc.md R288, R299, R300: a response, then a change of the controller's registers. -/
theorem respond {s t : State} {b : Byte} {f : Kbc → Kbc} (h : Machine.enqueue b s >>= Machine.setKbc f = .ok t) : s.Continues t :=
  bind h (fun _ => enqueue) (fun _ => setKbc)

theorem ata_only {s t : State} (h : t = { s with ata := t.ata }) : s.Continues t := h ▸ setAta s _

theorem ataCommand {s t : State} {f : Ata → Ata} (h : ataCommand s f = .ok t) : s.Continues t := ataCommand_cases h ▸ setAta s _

theorem ataDataRead {s t : State} {n : Nat} (h : ataDataRead n s = .ok t) : s.Continues t := by
  obtain ⟨a, bs, rfl⟩ := ataDataRead_cases h
  exact (setAta s a).trans (reply _ bs)

theorem ataIdentifyDone {s t : State} (h : execAtaIdentifyDone s = .next t) : s.Continues t := by
  unfold execAtaIdentifyDone at h
  split at h
  · cases h; exact setAta s _
  · cases h; exact refl s

theorem kbcDataRead {s t : State} (h : execKbcDataRead s = .next t) : s.Continues t := by
  unfold execKbcDataRead at h
  split at h
  · cases h; exact reply s _
  · cases h; exact of_same_events rfl rfl rfl rfl

/-- Every instruction, by the operation its meaning comes to. -/
theorem exec {i : Instr} {s t : State} (h : exec i s = .next t) : s.Continues t := by
  cases i with
  | picIcw1 | picNseoi | picSeoi | picRotNseoi | picRotSeoi | picSetpri | picRotAeoiSet | picRotAeoiClr | picOcw2Nop | picOcw3 =>
    exact commit h fun _ => picCommand
  | picIcw2 | picIcw3 | picIcw4 | picOcw1 => cases h; exact setPic s _ _
  | picDataRead | kbcStatusRead | ataLatchRead | ataErrorRead | ataStatusRead | ataAltstatusRead | pciAddrRead | cmosDataRead =>
    cases h; exact reply s _
  | pitCw | pitLatch => cases h; exact setPit s _ _
  | pitReadback => cases h; exact readbackAll _ _ _ s
  | pitWLsb | pitWMsb | pitWLow | pitWHigh => exact commit h fun _ => pitWrite
  | pitDataRead => cases h; exact (setPit s _ _).trans (reply _ _)
  | pitRLatched | pitRLive => exact commit h fun _ hu => pitRead_cases hu ▸ (setPit s _ _).trans (reply _ _)
  | kbcDataRead => exact kbcDataRead h
  | kbcReadConfig | kbcTestPort1 | kbcReadOutport => exact commit h fun _ hu => enqueue (kbcCommand_cases hu)
  | kbcWriteConfig | kbcDisablePort2 | kbcEnablePort2 | kbcDisablePort1 | kbcEnablePort1 | kbcWriteOutport =>
    exact commit h fun _ hu => setKbc (kbcCommand_cases hu)
  | kbcSelfTest => exact commit h fun _ hu => respond (kbcCommand_cases hu)
  | kbdScansetArg | kbdSetScanset => exact commit h fun _ => respond
  | kbdEnableScan | kbdDisableScan => exact commit h fun _ => enqueue
  | kbdReset => exact commit h fun _ hu => bind hu (fun _ => enqueue) fun _ hv => bind hv (fun _ => setKbc) fun _ => enqueue
  | ataLatchWrite => cases h; exact setAta s _
  | ataNop | ataIdentifyPacket | ataIdentify | ataPacket => exact commit h fun _ => ataCommand
  | ataDataWrite => exact commit h fun _ hu => ata_only (ataDataWrite_ata_only hu)
  | ataDataRead => exact commit h fun _ => ataDataRead
  | ataDevctl => exact commit h fun _ hu => ata_only (ataDevctl_ata_only hu)
  | cdbRead10 => exact commit h fun _ hu => ata_only (cdbRead10_ata_only hu)
  | cdbTestUnitReady => cases h; exact setAta s _
  | dmaMode | dmaSingleMask | dmaMasterReset => cases h; exact setDma s _ _
  | pciDataRead => exact commit h fun _ hu => pciAccess_cases hu ▸ reply s _
  | pciDataWrite => exact commit h fun _ hu => pciAccess_cases hu ▸ of_same_events rfl rfl rfl rfl
  | kbcConfigPayload | kbcOutportPayload | pciAddrWrite | cmosIndex | cmosDataWrite | hostPending =>
    cases h; exact of_same_events rfl rfl rfl rfl
  | picTick => cases h; exact picTick _ s
  | pitTick => cases h; exact pitTick s
  | ataIdentifyDone => exact ataIdentifyDone h
  | hostTake => cases h; exact deliverFrom _ s

end State.Continues

/-- All that a step does to the parts it only hands on: nothing with no input left, else it takes one input and continues. -/
theorem step_continues {s t : State} (h : step s = .next t) :
    t = s ∨ ∃ i rest, s.inputs = i :: rest ∧ (deliver s i rest).Continues t := by
  obtain ⟨-, ⟨-, rfl⟩ | ⟨i, rest, hi, ⟨x, -, hx⟩ | ⟨r, -, rfl⟩⟩⟩ := step_cases h
  · exact .inl rfl
  · exact .inr ⟨i, rest, hi, .exec hx⟩
  · exact .inr ⟨i, rest, hi, .raiseFatal r _⟩

/-- Settles O13: every instruction continues the state its input is delivered in, and the delivery takes the first input alone. -/
theorem constantsAndHistoryKept : Obligations.ConstantsAndHistoryKept := by
  intro s t h
  obtain rfl | ⟨i, rest, hi, hp, hq, hr, es, he⟩ := step_continues h
  · exact ⟨rfl, rfl, ⟨[], (List.append_nil _).symm⟩, .inl rfl⟩
  · rw [deliver_ports] at hp
    rw [deliver_params] at hq
    rw [deliver_inputs] at hr
    rw [deliver_events] at he
    exact ⟨hp, hq, ⟨es, he⟩, .inr ⟨i, hr ▸ hi⟩⟩

/-! ## The values after start-up -/

/-- 10_state.md R35 to R40: the units differ after reset in ICW2 alone. -/
theorem resetWith_pic (p : Params) (u : PicUnit) :
    (State.resetWith p).pic u = Pic.reset (match u with | .primary => p.picResetBase0 | .secondary => p.picResetBase1) := by
  cases u <;> rfl

theorem resetWith_pit (p : Params) (c : PitChan) : (State.resetWith p).pit c = Pit.reset := by cases c <;> rfl

theorem resetWith_dma (p : Params) (k : DmaUnit) : (State.resetWith p).dma k = Dma.reset := by cases k <;> rfl

theorem resetWith_pic_imr (p : Params) (u : PicUnit) : ((State.resetWith p).pic u).imr = 0xFF := by rw [resetWith_pic]; rfl

/-- Settles O23: `State.reset` is start-up with the launch parameters. -/
theorem resetMasks : Obligations.ResetMasks := fun p u => ⟨resetWith_pic_imr p u, resetWith_pic_imr Config.launch u⟩

/-- Settles O24: the indexed devices by their lemmas, every other field by the definition of its reset value. -/
theorem resetValues : Obligations.ResetValues := fun p =>
  ⟨resetWith_pic p, resetWith_pit p, rfl, rfl, resetWith_dma p, rfl, rfl, rfl, rfl, rfl, rfl⟩

end Sys2Proof.Machine
end

section
/-! SUPPORT. The encoding family (30_encoding.md): the selector word, and that the decoder undoes the encoder. -/

namespace Sys2Proof

/-! ## The selector word (R130) -/

theorem toNat_append_eq_add {m n : Nat} (x : BitVec m) (y : BitVec n) : (x ++ y).toNat = x.toNat * 2 ^ n + y.toNat := by
  rw [BitVec.toNat_append, ← Nat.shiftLeft_add_eq_or_of_lt y.isLt, Nat.shiftLeft_eq]

/-- R130's layout, most significant field first. -/
def selWord (d : BitVec 1) (code : BitVec 3) (port : BitVec 16) (b : Byte) : Word := d ++ code ++ 0#4 ++ port ++ b

theorem selWord_toNat (d : BitVec 1) (code : BitVec 3) (port : BitVec 16) (b : Byte) :
    (selWord d code port b).toNat = d.toNat * 2 ^ 31 + code.toNat * 2 ^ 28 + port.toNat * 2 ^ 8 + b.toNat := by
  simp only [selWord, toNat_append_eq_add, BitVec.toNat_ofNat]
  omega

section Fields

variable (d : BitVec 1) (code : BitVec 3) (port : BitVec 16) (b : Byte)

theorem selWord_extract (i n : Nat) : ((selWord d code port b).extractLsb' i n).toNat =
    (d.toNat * 2 ^ 31 + code.toNat * 2 ^ 28 + port.toNat * 2 ^ 8 + b.toNat) / 2 ^ i % 2 ^ n := by
  rw [BitVec.extractLsb'_toNat, selWord_toNat, Nat.shiftRight_eq_div_pow]

theorem selWord_size : (selWord d code port b).extractLsb' 28 3 = code := by
  apply BitVec.eq_of_toNat_eq
  rw [selWord_extract]
  omega

theorem selWord_zeros : (selWord d code port b).extractLsb' 24 4 = 0#4 := by
  apply BitVec.eq_of_toNat_eq
  rw [selWord_extract, BitVec.toNat_ofNat]
  omega

theorem selWord_port : (selWord d code port b).extractLsb' 8 16 = port := by
  apply BitVec.eq_of_toNat_eq
  rw [selWord_extract]
  omega

theorem selWord_byte : (selWord d code port b).extractLsb' 0 8 = b := by
  apply BitVec.eq_of_toNat_eq
  rw [selWord_extract]
  omega

theorem selWord_dir : (selWord d code port b).getLsbD 31 = d.getLsbD 0 := by
  have hc := code.isLt
  have hp := port.isLt
  have hb := b.isLt
  simp only [BitVec.getLsbD, selWord_toNat, Nat.testBit_eq_decide_div_mod_eq]
  congr 2
  omega

end Fields

theorem ofSelCode_selCode (z : Size) : Size.ofSelCode z.selCode = some z := by cases z <;> rfl

theorem selCode_toNat (z : Size) : z.selCode.toNat = z.bytes := by cases z <;> rfl

/-- What the layout reads back as: its fields, an IN's byte left out. -/
theorem ofSel_selWord (d : BitVec 1) (z : Size) (port : BitVec 16) (b : Byte) : Wire.ofSel (selWord d z.selCode port b) =
    if d.getLsbD 0 then some ⟨.out, z, port, 1, b.setWidth 32⟩ else some ⟨.inp, z, port, 1, 0⟩ := by
  simp only [Wire.ofSel, selWord_zeros, selWord_size, selWord_port, selWord_byte, selWord_dir, ofSelCode_selCode, ne_eq,
    not_true_eq_false, if_false]
  rfl

@[simp] theorem Wire.byte_setWidth (d : Dir) (z : Size) (p : BitVec 16) (n : BitVec 32) (b : Byte) :
    (Wire.mk d z p n (b.setWidth 32)).byte = b := by
  rw [Wire.byte, BitVec.extractLsb'_setWidth_of_le (by decide), BitVec.extractLsb'_eq_self]

theorem sel_out (z : Size) (port : BitVec 16) (b : Byte) :
    Wire.sel ⟨.out, z, port, 1, b.setWidth 32⟩ = selWord 1#1 z.selCode port b := by
  show selWord 1#1 z.selCode port (Wire.byte _) = _
  rw [Wire.byte_setWidth]

theorem sel_inp (z : Size) (port : BitVec 16) : Wire.sel ⟨.inp, z, port, 1, 0⟩ = selWord 0#1 z.selCode port 0#8 := by
  rw [Wire.sel, selWord]

/-- Settles O7: both selector words are the layout `selWord`, which reads back field by field and is the sum of its fields. -/
theorem selectorRoundTrip : Obligations.SelectorRoundTrip := by
  intro z port b
  rw [sel_out, sel_inp]
  refine ⟨?_, ?_, ?_, ?_⟩
  · rw [ofSel_selWord]; rfl
  · rw [ofSel_selWord]; rfl
  · rw [selWord_toNat, selCode_toNat]; simp
  · rw [selWord_toNat, selCode_toNat]; simp

/-! ## Where a transaction goes (R131, R164, R166) -/

@[simp] theorem Wire.out1_byte (p : BitVec 16) (b : Byte) : (Wire.out1 p b).byte = b := Wire.byte_setWidth _ _ _ _ _

@[simp] theorem Wire.out1_port (p : BitVec 16) (b : Byte) : (Wire.out1 p b).port = p := rfl

@[simp] theorem Wire.out1_dir (p : BitVec 16) (b : Byte) : (Wire.out1 p b).dir = .out := rfl

@[simp] theorem Wire.in1_port (p : BitVec 16) : (Wire.in1 p).port = p := rfl

@[simp] theorem Wire.in1_dir (p : BitVec 16) : (Wire.in1 p).dir = .inp := rfl

theorem decode_accepted {c : SeqState} (hc : c.ports = portMap) {w : Wire} {x : Handler} (hx : handlerAt portMap w.port = some x)
    (ha : accepted w = true) : decode c (.port w) = decodeHandler c x w := by
  simp only [decode, decodePort, hc, hx, ha, if_true]

/-- R166's table does not look at the payload. -/
theorem accepted_imm (d : Dir) (z : Size) (p : BitVec 16) (n : BitVec 32) (v v' : Word) :
    accepted ⟨d, z, p, n, v⟩ = accepted ⟨d, z, p, n, v'⟩ := rfl

theorem decode_out1 {c : SeqState} (hc : c.ports = portMap) {p : BitVec 16} {x : Handler} (hx : handlerAt portMap p = some x)
    (ha : accepted (.out1 p 0) = true) (b : Byte) : decode c (.port (.out1 p b)) = decodeHandler c x (.out1 p b) :=
  decode_accepted hc hx ((accepted_imm ..).trans ha)

theorem decode_in1 {c : SeqState} (hc : c.ports = portMap) {p : BitVec 16} {x : Handler} (hx : handlerAt portMap p = some x)
    (ha : accepted (.in1 p) = true) : decode c (.port (.in1 p)) = decodeHandler c x (.in1 p) :=
  decode_accepted hc hx ha

/-- R143, R166: the data port takes sizes 2 and 4 and every count but 0. -/
theorem accepted_ataData (d : Dir) (z : DataWidth) {n : BitVec 32} (hn : (n != 0) = true) (v : Word) :
    accepted ⟨d, z.size, 0x1F0, n, v⟩ = true := by
  have hr : (⟨0x01F0, 0x01F0, [.b2, .b4], [.b2, .b4], true⟩ : AcceptRow) ∈ acceptTable := by decide
  refine List.any_eq_true.2 ⟨_, hr, ?_⟩
  simp only [if_true, hn, Bool.and_true]
  cases d <;> cases z <;> rfl

theorem accepted_pciData (d : Dir) (z : Size) (lane : BitVec 2) (v : Word) : accepted ⟨d, z, 0x33F#14 ++ lane, 1, v⟩ = true := by
  rw [accepted_imm d z _ 1 v 0]
  cases d <;> cases z <;> revert lane <;> decide

theorem handlerAt_pciData : ∀ lane : BitVec 2, handlerAt portMap (0x33F#14 ++ lane) = some .pci := by decide

/-- R399: the lane is the low two bits of a data port. -/
theorem pciDataPort_fields (lane : BitVec 2) : (0x33F#14 ++ lane : BitVec 16) ≠ 0xCF8 ∧
    (0x33F#14 ++ lane : BitVec 16).extractLsb' 2 14 = 0x33F#14 ∧ (0x33F#14 ++ lane : BitVec 16).extractLsb' 0 2 = lane := by
  revert lane; decide

/-- R12: a value that fits the size is moved whole. -/
theorem Wire.value_eq_imm {w : Wire} (h : w.imm.toNat < 2 ^ (8 * w.size.bytes)) : w.value = w.imm := by
  apply BitVec.eq_of_toNat_eq
  unfold Wire.value
  cases hz : w.size <;> simp only [hz, Size.bytes] at h ⊢
  · simp; omega
  · simp; omega

section Rows

variable {c : SeqState} (hc : c.ports = portMap)
include hc

/-! ## What each family's ports decode to -/

theorem decode_picCommand (u : PicUnit) (b : Byte) : decode c (.port (.out1 u.commandPort b)) = .ok (decodePicCommand u b) := by
  cases u
  · rw [decode_out1 hc (x := .pic0) (by rfl) (by rfl)]; simp [PicUnit.commandPort, decodeHandler, decodePic]
  · rw [decode_out1 hc (x := .pic1) (by rfl) (by rfl)]; simp [PicUnit.commandPort, decodeHandler, decodePic]

theorem decode_picData_out (u : PicUnit) (b : Byte) :
    decode c (.port (.out1 u.dataPort b)) = .ok (decodePicData (c.picInit u) u b) := by
  cases u
  · rw [decode_out1 hc (x := .pic0) (by rfl) (by rfl)]; simp [PicUnit.dataPort, decodeHandler, decodePic]
  · rw [decode_out1 hc (x := .pic1) (by rfl) (by rfl)]; simp [PicUnit.dataPort, decodeHandler, decodePic]

theorem decode_picData_in (u : PicUnit) : decode c (.port (.in1 u.dataPort)) = .ok (.picDataRead u) := by
  cases u
  · rw [decode_in1 hc (x := .pic0) (by rfl) (by rfl)]; simp [PicUnit.dataPort, decodeHandler, decodePic]
  · rw [decode_in1 hc (x := .pic1) (by rfl) (by rfl)]; simp [PicUnit.dataPort, decodeHandler, decodePic]

theorem decode_pitCommand (b : Byte) : decode c (.port (.out1 0x43 b)) = .ok (decodePitCommand b) := by
  rw [decode_out1 hc (x := .pit) (by rfl) (by rfl)]; simp [decodeHandler, decodePit]

theorem decode_pitData_out (ch : PitChan) (b : Byte) :
    decode c (.port (.out1 ch.port b)) = .ok (decodePitWrite (c.pit ch) ch b) := by
  cases ch
  · rw [decode_out1 hc (x := .pit) (by rfl) (by rfl)]; simp [PitChan.port, decodeHandler, decodePit, decodePitData]
  · rw [decode_out1 hc (x := .pit) (by rfl) (by rfl)]; simp [PitChan.port, decodeHandler, decodePit, decodePitData]
  · rw [decode_out1 hc (x := .pit) (by rfl) (by rfl)]; simp [PitChan.port, decodeHandler, decodePit, decodePitData]

theorem decode_pitData_in (ch : PitChan) : decode c (.port (.in1 ch.port)) = .ok (decodePitRead (c.pit ch) ch) := by
  cases ch
  · rw [decode_in1 hc (x := .pit) (by rfl) (by rfl)]; simp [PitChan.port, decodeHandler, decodePit, decodePitData]
  · rw [decode_in1 hc (x := .pit) (by rfl) (by rfl)]; simp [PitChan.port, decodeHandler, decodePit, decodePitData]
  · rw [decode_in1 hc (x := .pit) (by rfl) (by rfl)]; simp [PitChan.port, decodeHandler, decodePit, decodePitData]

theorem decode_kbcCommand (b : Byte) : decode c (.port (.out1 0x64 b)) = decodeKbcCommand c.kbcExpect b := by
  rw [decode_out1 hc (x := .kbc) (by rfl) (by rfl)]; simp [decodeHandler, decodeKbc]

theorem decode_kbcStatus : decode c (.port (.in1 0x64)) = .ok .kbcStatusRead := by
  rw [decode_in1 hc (x := .kbc) (by rfl) (by rfl)]; simp [decodeHandler, decodeKbc]

theorem decode_kbcData_out (b : Byte) : decode c (.port (.out1 0x60 b)) = decodeKbcData c b := by
  rw [decode_out1 hc (x := .kbc) (by rfl) (by rfl)]; simp [decodeHandler, decodeKbc]

theorem decode_kbcData_in : decode c (.port (.in1 0x60)) = .ok .kbcDataRead := by
  rw [decode_in1 hc (x := .kbc) (by rfl) (by rfl)]; simp [decodeHandler, decodeKbc]

theorem decode_ataLatch_out (r : AtaLatch) (b : Byte) : decode c (.port (.out1 r.port b)) = .ok (.ataLatchWrite r b) := by
  rw [decode_out1 hc (x := .ata) (by cases r <;> rfl) (by cases r <;> rfl)]
  cases r <;> simp [AtaLatch.port, decodeHandler, decodeAta]

theorem decode_ataLatch_in (r : AtaReadLatch) : decode c (.port (.in1 r.latch.port)) = .ok (.ataLatchRead r) := by
  rw [decode_in1 hc (x := .ata) (by cases r <;> rfl) (by cases r <;> rfl)]
  cases r <;> rfl

theorem decode_ataCommand (b : Byte) : decode c (.port (.out1 0x1F7 b)) = decodeAtaCommand c.ataBusy b := by
  rw [decode_out1 hc (x := .ata) (by rfl) (by rfl)]; simp [decodeHandler, decodeAta]

theorem decode_ataDevctl (b : Byte) : decode c (.port (.out1 0x3F6 b)) = .ok (.ataDevctl b) := by
  rw [decode_out1 hc (x := .ata) (by rfl) (by rfl)]; simp [decodeHandler, decodeAta]

theorem decode_ataError : decode c (.port (.in1 0x1F1)) = .ok .ataErrorRead := by
  rw [decode_in1 hc (x := .ata) (by rfl) (by rfl)]; simp [decodeHandler, decodeAta]

theorem decode_ataStatus : decode c (.port (.in1 0x1F7)) = .ok .ataStatusRead := by
  rw [decode_in1 hc (x := .ata) (by rfl) (by rfl)]; simp [decodeHandler, decodeAta]

theorem decode_ataAltstatus : decode c (.port (.in1 0x3F6)) = .ok .ataAltstatusRead := by
  rw [decode_in1 hc (x := .ata) (by rfl) (by rfl)]; simp [decodeHandler, decodeAta]

theorem decode_ataData_out (z : DataWidth) {n : BitVec 32} (hn : (n != 0) = true) :
    decode c (.port ⟨.out, z.size, 0x1F0, n, 0⟩) = .ok (.ataDataWrite z n) := by
  rw [decode_accepted hc (x := .ata) rfl (accepted_ataData .out z hn 0)]
  cases z <;> rfl

theorem decode_ataData_in (z : DataWidth) {n : BitVec 32} (hn : (n != 0) = true) :
    decode c (.port ⟨.inp, z.size, 0x1F0, n, 0⟩) = .ok (.ataDataRead z n) := by
  rw [decode_accepted hc (x := .ata) rfl (accepted_ataData .inp z hn 0)]
  cases z <;> rfl

theorem decode_dmaMode (k : DmaUnit) (b : Byte) : decode c (.port (.out1 k.modePort b)) = .ok (.dmaMode k b) := by
  cases k
  · rw [decode_out1 hc (x := .dma0) (by rfl) (by rfl)]; simp [DmaUnit.modePort, decodeHandler, decodeDma]
  · rw [decode_out1 hc (x := .dma1) (by rfl) (by rfl)]; simp [DmaUnit.modePort, decodeHandler, decodeDma]

theorem decode_dmaMask (k : DmaUnit) (b : Byte) :
    decode c (.port (.out1 k.maskPort b)) = .ok (.dmaSingleMask k (b.getLsbD 2) (b.extractLsb' 0 2)) := by
  cases k
  · rw [decode_out1 hc (x := .dma0) (by rfl) (by rfl)]; simp [DmaUnit.maskPort, decodeHandler, decodeDma]
  · rw [decode_out1 hc (x := .dma1) (by rfl) (by rfl)]; simp [DmaUnit.maskPort, decodeHandler, decodeDma]

theorem decode_dmaReset (k : DmaUnit) (b : Byte) : decode c (.port (.out1 k.resetPort b)) = .ok (.dmaMasterReset k) := by
  cases k
  · rw [decode_out1 hc (x := .dma0) (by rfl) (by rfl)]; simp [DmaUnit.resetPort, decodeHandler, decodeDma]
  · rw [decode_out1 hc (x := .dma1) (by rfl) (by rfl)]; simp [DmaUnit.resetPort, decodeHandler, decodeDma]

theorem decode_pciAddr_out (v : Word) : decode c (.port ⟨.out, .b4, 0xCF8, 1, v⟩) = .ok (.pciAddrWrite v) :=
  decode_accepted hc (x := .pci) rfl rfl

theorem decode_pciAddr_in (v : Word) : decode c (.port ⟨.inp, .b4, 0xCF8, 1, v⟩) = .ok .pciAddrRead :=
  decode_accepted hc (x := .pci) rfl rfl

theorem decode_pciData_out (z : Size) (lane : BitVec 2) {v : Word} (hv : v.toNat < 2 ^ (8 * z.bytes)) :
    decode c (.port ⟨.out, z, 0x33F#14 ++ lane, 1, v⟩) = .ok (.pciDataWrite z lane v) := by
  obtain ⟨haddr, hbase, hlane⟩ := pciDataPort_fields lane
  rw [decode_accepted hc (handlerAt_pciData lane) (accepted_pciData .out z lane v)]
  simp only [decodeHandler, decodePci, if_neg haddr, hbase, hlane, if_true]
  rw [Wire.value_eq_imm hv]

theorem decode_pciData_in (z : Size) (lane : BitVec 2) (v : Word) :
    decode c (.port ⟨.inp, z, 0x33F#14 ++ lane, 1, v⟩) = .ok (.pciDataRead z lane) := by
  obtain ⟨haddr, hbase, hlane⟩ := pciDataPort_fields lane
  rw [decode_accepted hc (handlerAt_pciData lane) (accepted_pciData .inp z lane v)]
  simp only [decodeHandler, decodePci, if_neg haddr, hbase, hlane, if_true]

theorem decode_cmosIndex (b : Byte) : decode c (.port (.out1 0x70 b)) = .ok (.cmosIndex b) := by
  rw [decode_out1 hc (x := .cmos) (by rfl) (by rfl)]; simp [decodeHandler, decodeCmos]

theorem decode_cmosData_out (b : Byte) : decode c (.port (.out1 0x71 b)) = .ok (.cmosDataWrite b) := by
  rw [decode_out1 hc (x := .cmos) (by rfl) (by rfl)]; simp [decodeHandler, decodeCmos]

theorem decode_cmosData_in : decode c (.port (.in1 0x71)) = .ok .cmosDataRead := by
  rw [decode_in1 hc (x := .cmos) (by rfl) (by rfl)]; simp [decodeHandler, decodeCmos]

end Rows

/-! ## The command bytes (R136, R138, R139, R147) and the CDB (R145) -/

theorem ocw2Byte_fields (code l : BitVec 3) : (ocw2Byte code l).getLsbD 4 = false ∧ (ocw2Byte code l).getLsbD 3 = false ∧
    (ocw2Byte code l).extractLsb' 5 3 = code ∧ (ocw2Byte code l).extractLsb' 0 3 = l := by
  revert code l; decide

theorem pitControlByte_fields : ∀ (sc rw : BitVec 2) (m : BitVec 3) (bcd : Bool),
    (pitControlByte sc rw m bcd).extractLsb' 6 2 = sc ∧ (pitControlByte sc rw m bcd).extractLsb' 4 2 = rw ∧
    (pitControlByte sc rw m bcd).extractLsb' 1 3 = m ∧ (pitControlByte sc rw m bcd).getLsbD 0 = bcd := by decide

theorem pitReadbackByte_fields : ∀ (countN statusN : Bool) (sel : BitVec 3),
    (pitReadbackByte countN statusN sel).extractLsb' 6 2 = 0b11#2 ∧ (pitReadbackByte countN statusN sel).getLsbD 5 = countN ∧
    (pitReadbackByte countN statusN sel).getLsbD 4 = statusN ∧ (pitReadbackByte countN statusN sel).extractLsb' 1 3 = sel := by
  decide

theorem dmaMaskByte_fields : ∀ (set : Bool) (i : BitVec 2),
    (dmaMaskByte set i).getLsbD 2 = set ∧ (dmaMaskByte set i).extractLsb' 0 2 = i := by decide

theorem decodePicCommand_icw1 {b : Byte} (h : b.getLsbD 4 = true) (u : PicUnit) : decodePicCommand u b = .picIcw1 u b := if_pos h

theorem decodePicCommand_ocw3 {b : Byte} (h3 : b.getLsbD 3 = true) (h4 : b.getLsbD 4 = false) (u : PicUnit) :
    decodePicCommand u b = .picOcw3 u b := by
  simp only [decodePicCommand, h3, h4, Bool.false_eq_true, if_false, if_true]

theorem PitChan.code_ne_readback (ch : PitChan) : ch.code ≠ 0b11#2 := by cases ch <;> decide

theorem PitChan.ofCode_code (ch : PitChan) :
    (if ch.code = 0b00#2 then PitChan.c0 else if ch.code = 0b01#2 then .c1 else .c2) = ch := by cases ch <;> rfl

theorem decodePitCommand_latch (ch : PitChan) (m : BitVec 3) (bcd : Bool) :
    decodePitCommand (pitControlByte ch.code 0b00 m bcd) = .pitLatch ch := by
  obtain ⟨hsc, hrw, -, -⟩ := pitControlByte_fields ch.code 0b00 m bcd
  simp only [decodePitCommand, hsc, hrw, if_neg ch.code_ne_readback, ch.ofCode_code]
  rfl

theorem decodePitCommand_control {rw : BitVec 2} (h : (rw != 0) = true) (ch : PitChan) (m : BitVec 3) (bcd : Bool) :
    decodePitCommand (pitControlByte ch.code rw m bcd) = .pitCw ch rw m bcd := by
  obtain ⟨hsc, hrw, hm, hbcd⟩ := pitControlByte_fields ch.code rw m bcd
  simp only [decodePitCommand, hsc, hrw, hm, hbcd, if_neg ch.code_ne_readback, ch.ofCode_code]
  exact if_neg (bne_iff_ne.1 h)

theorem decodePitCommand_readback (countN statusN : Bool) (sel : BitVec 3) :
    decodePitCommand (pitReadbackByte countN statusN sel) = .pitReadback countN statusN sel := by
  obtain ⟨hsc, hc, hs, hsel⟩ := pitReadbackByte_fields countN statusN sel
  simp only [decodePitCommand, hsc, hc, hs, hsel, if_true]

theorem be32_bytes (x : BitVec 32) :
    be32 (x.extractLsb' 24 8) (x.extractLsb' 16 8) (x.extractLsb' 8 8) (x.extractLsb' 0 8) = x := by
  apply BitVec.eq_of_toNat_eq
  simp only [be32, toNat_append_eq_add, BitVec.extractLsb'_toNat, Nat.shiftRight_eq_div_pow]
  omega

theorem be16_bytes (x : BitVec 16) : be16 (x.extractLsb' 8 8) (x.extractLsb' 0 8) = x := by
  apply BitVec.eq_of_toNat_eq
  simp only [be16, toNat_append_eq_add, BitVec.extractLsb'_toNat, Nat.shiftRight_eq_div_pow]
  omega

theorem decodeCdb_read10 (lba : BitVec 32) (cnt : BitVec 16) : decodeCdb (read10Cdb lba cnt) = .ok (.cdbRead10 lba cnt) := by
  simp only [decodeCdb, read10Cdb, List.getD_cons_succ, List.getD_cons_zero, if_true, be32_bytes, be16_bytes]

theorem decodeCdb_zeros : decodeCdb (List.replicate 12 0) = .ok .cdbTestUnitReady := rfl

/-! ## Every instruction -/

/-- Settles O4, constructor by constructor: the family's ports (`Rows`), then what the byte, CDB or cursor says. -/
theorem decodeEncode : Obligations.DecodeEncode := by
  intro c i hc hwf hrow
  cases i with
  | picIcw1 u b => exact (decode_picCommand hc u b).trans (congrArg _ (decodePicCommand_icw1 hwf u))
  | picOcw3 u b =>
    obtain ⟨h3, h4⟩ : b.getLsbD 3 = true ∧ b.getLsbD 4 = false := by simpa [Instr.wf] using hwf
    exact (decode_picCommand hc u b).trans (congrArg _ (decodePicCommand_ocw3 h3 h4 u))
  | picIcw2 u | picIcw3 u | picIcw4 u | picOcw1 u =>
    refine (decode_picData_out hc u _).trans ?_
    rw [eq_of_beq hrow, decodePicData]
  | picNseoi u | picSeoi u | picRotNseoi u | picRotSeoi u | picSetpri u | picRotAeoiSet u | picRotAeoiClr u | picOcw2Nop u =>
    refine (decode_picCommand hc u _).trans ?_
    simp only [decodePicCommand, ocw2Byte_fields, Bool.false_eq_true, if_false]
    rfl
  | picDataRead u => exact decode_picData_in hc u
  | pitCw ch rw m bcd => exact (decode_pitCommand hc _).trans (congrArg _ (decodePitCommand_control hwf ch m bcd))
  | pitLatch ch => exact (decode_pitCommand hc _).trans (congrArg _ (decodePitCommand_latch ch 0 false))
  | pitReadback countN statusN sel =>
    exact (decode_pitCommand hc _).trans (congrArg _ (decodePitCommand_readback countN statusN sel))
  | pitWLsb ch b | pitWMsb ch b | pitWLow ch b | pitWHigh ch b =>
    refine (decode_pitData_out hc ch b).trans ?_
    simp only [Instr.rowCondition, Bool.and_eq_true, Bool.not_eq_true', beq_iff_eq] at hrow
    simp [decodePitWrite, hrow]
  | pitDataRead ch | pitRLatched ch | pitRLive ch =>
    refine (decode_pitData_in hc ch).trans ?_
    simp only [Instr.rowCondition, Bool.and_eq_true, Bool.not_eq_true'] at hrow
    simp [decodePitRead, hrow]
  | kbcStatusRead => exact decode_kbcStatus hc
  | kbcDataRead => exact decode_kbcData_in hc
  | kbcReadConfig | kbcWriteConfig | kbcDisablePort2 | kbcEnablePort2 | kbcSelfTest | kbcTestPort1 | kbcDisablePort1
  | kbcEnablePort1 | kbcReadOutport | kbcWriteOutport => exact decode_kbcCommand hc _
  | kbcConfigPayload b | kbcOutportPayload b =>
    refine (decode_kbcData_out hc b).trans ?_
    rw [decodeKbcData, eq_of_beq hrow]
  | kbdScansetArg | kbdSetScanset | kbdEnableScan | kbdDisableScan | kbdReset =>
    refine (decode_kbcData_out hc _).trans ?_
    simp only [Instr.rowCondition, Bool.and_eq_true, beq_iff_eq] at hrow
    simp [decodeKbcData, hrow]
  | ataLatchWrite r b => exact decode_ataLatch_out hc r b
  | ataLatchRead r => exact decode_ataLatch_in hc r
  | ataErrorRead => exact decode_ataError hc
  | ataStatusRead => exact decode_ataStatus hc
  | ataAltstatusRead => exact decode_ataAltstatus hc
  | ataNop | ataIdentifyPacket | ataIdentify | ataPacket => exact decode_ataCommand hc _
  | ataDataWrite z n => exact decode_ataData_out hc z hwf
  | ataDataRead z n => exact decode_ataData_in hc z hwf
  | ataDevctl b => exact decode_ataDevctl hc b
  | cdbRead10 lba cnt => exact decodeCdb_read10 lba cnt
  | cdbTestUnitReady => exact decodeCdb_zeros
  | dmaMode k b => exact decode_dmaMode hc k b
  | dmaSingleMask k set i =>
    obtain ⟨hset, hi⟩ := dmaMaskByte_fields set i
    exact (decode_dmaMask hc k _).trans (by rw [hset, hi])
  | dmaMasterReset k => exact decode_dmaReset hc k 0
  | pciAddrWrite v => exact decode_pciAddr_out hc v
  | pciAddrRead => exact decode_pciAddr_in hc 0
  | pciDataRead z lane => exact decode_pciData_in hc z lane 0
  | pciDataWrite z lane v => exact decode_pciData_out hc z lane (of_decide_eq_true hwf)
  | cmosIndex b => exact decode_cmosIndex hc b
  | cmosDataRead => exact decode_cmosData_in hc
  | cmosDataWrite b => exact decode_cmosData_out hc b
  | picTick | pitTick | ataIdentifyDone | hostTake | hostPending => rfl

/-! ## The decoder's answers -/

theorem wf_of_portInstr {i : Instr} (h : portInstr i = true) : i.wf = true := by
  cases i with
  | cdbRead10 | cdbTestUnitReady | picTick | pitTick | ataIdentifyDone | hostTake | hostPending => rfl
  | _ => exact h

theorem wf_of_decodeCdb {l : List Byte} {i : Instr} (h : decodeCdb l = .ok i) : i.wf = true := by
  unfold decodeCdb at h
  split_ifs at h <;> cases h <;> rfl

theorem AgentStep.instr_wf (a : AgentStep) : a.instr.wf = true := by cases a <;> rfl

/-- Settles O5: a port transaction by `decodePort_portInstr`; neither a CDB nor an agent's turn has an operand that `wf` restricts. -/
theorem decodeWellFormed : Obligations.DecodeWellFormed := by
  intro c k i h
  cases k with
  | port w => exact wf_of_portInstr (decodePort_portInstr h)
  | cdb l => exact wf_of_decodeCdb h
  | agent a => cases h; exact a.instr_wf

/-- Settles O6: closed words, each read by evaluating the decoder. -/
theorem decodeSampleWords : Obligations.DecodeSampleWords := by
  unfold Obligations.DecodeSampleWords
  decide

end Sys2Proof
end

section
/-! SUPPORT. The dispatch family (40_dispatch.md): the port map, the acceptance table, what a handler can answer, start-up. -/

namespace Sys2Proof

/-! ## The port map and the acceptance table (20_memory.md R106, R166) -/

@[simp] theorem PortRange.covers_iff (r : PortRange) (p : BitVec 16) : r.covers p = true ↔ r.lo ≤ p ∧ p ≤ r.hi := by
  simp [PortRange.covers]

/-- The thirteen ranges of R106. -/
def InPortMap (p : BitVec 16) : Prop :=
  p ≤ 0x0F ∨ (0x20 ≤ p ∧ p ≤ 0x21) ∨ (0x40 ≤ p ∧ p ≤ 0x43) ∨ p = 0x60 ∨ p = 0x64 ∨
  (0x70 ≤ p ∧ p ≤ 0x71) ∨ (0xA0 ≤ p ∧ p ≤ 0xA1) ∨ (0xC0 ≤ p ∧ p ≤ 0xDE) ∨
  (0x170 ≤ p ∧ p ≤ 0x177) ∨ (0x1F0 ≤ p ∧ p ≤ 0x1F7) ∨ (0x376 ≤ p ∧ p ≤ 0x377) ∨
  (0x3F6 ≤ p ∧ p ≤ 0x3F7) ∨ (0xCF8 ≤ p ∧ p ≤ 0xCFF)

theorem handlerAt_ne_none_iff (ports : List PortRange) (p : BitVec 16) :
    handlerAt ports p ≠ none ↔ ∃ r ∈ ports, r.lo ≤ p ∧ p ≤ r.hi := by
  simp [handlerAt]

theorem le_and_ge_iff_eq (a p : BitVec 16) : (a ≤ p ∧ p ≤ a) ↔ p = a :=
  ⟨fun ⟨h1, h2⟩ => BitVec.le_antisymm h2 h1, fun h => h ▸ ⟨BitVec.le_refl _, BitVec.le_refl _⟩⟩

theorem handlerAt_portMap_iff (p : BitVec 16) : handlerAt portMap p ≠ none ↔ InPortMap p := by
  rw [handlerAt_ne_none_iff]
  simp only [portMap, List.mem_cons, List.not_mem_nil, or_false, exists_eq_or_imp, exists_eq_left, InPortMap, le_and_ge_iff_eq,
    show (0x0000 : BitVec 16) ≤ p from Nat.zero_le _, true_and]

/-- The rows of R166 that accept something: `OUT1` alone, both directions of one byte, the ATA data port, PCI's two. -/
def Descriptor.InAcceptTable (d : Descriptor) : Prop :=
  (d.port ∈ [0x20, 0xA0, 0x43, 0x70, 0x0A, 0x0B, 0x0D, 0xD4, 0xD6, 0xDA] ∧ d.dir = .out ∧ d.size = .b1 ∧ d.count = 1) ∨
  ((d.port ∈ [0x21, 0xA1, 0x60, 0x64, 0x71, 0x3F6] ∨ (0x40 ≤ d.port ∧ d.port ≤ 0x42) ∨ (0x1F1 ≤ d.port ∧ d.port ≤ 0x1F7)) ∧
    d.size = .b1 ∧ d.count = 1) ∨
  (d.port = 0x1F0 ∧ (d.size = .b2 ∨ d.size = .b4) ∧ 1 ≤ d.count) ∨
  (d.port = 0xCF8 ∧ d.size = .b4 ∧ d.count = 1) ∨
  (0xCFC ≤ d.port ∧ d.port ≤ 0xCFF ∧ d.count = 1)

theorem accepted_iff_exists (w : Wire) : accepted w = true ↔ ∃ r ∈ acceptTable,
    (r.lo ≤ w.port ∧ w.port ≤ r.hi) ∧ w.size ∈ r.sizes w.dir ∧ (if r.many then w.count ≠ 0 else w.count = 1) := by
  rw [accepted, List.any_eq_true]
  refine exists_congr fun r => and_congr_right fun _ => ?_
  cases r.many <;> simp [and_assoc]

theorem accepted_iff (d : Descriptor) (imm : Word) :
    accepted ⟨d.dir, d.size, d.port, d.count, imm⟩ = true ↔ d.InAcceptTable := by
  obtain ⟨dir, size, port, count, off⟩ := d
  have hmany : count ≠ 0 ↔ 1 ≤ count := by bv_omega
  have hmask : (0x0A ≤ port ∧ port ≤ 0x0B) ↔ port = 0x0A ∨ port = 0x0B := by bv_omega
  simp only [accepted_iff_exists, acceptTable, List.mem_cons, List.not_mem_nil, or_false, exists_eq_or_imp, exists_eq_left,
    le_and_ge_iff_eq, hmask, AcceptRow.sizes, Descriptor.InAcceptTable, if_true, Bool.false_eq_true, if_false, hmany]
  cases size <;> cases dir <;> grind

/-! ## Which handler has a port -/

/-- Two ranges with no port in common, one below the other. -/
def PortRange.Apart (a b : PortRange) : Prop := a.hi < b.lo ∨ b.hi < a.lo

theorem PortRange.Apart.symm {a b : PortRange} (h : a.Apart b) : b.Apart a := Or.symm h

theorem PortRange.Apart.not_both {a b : PortRange} (h : a.Apart b) {p : BitVec 16} (ha : a.lo ≤ p ∧ p ≤ a.hi) :
    ¬ (b.lo ≤ p ∧ p ≤ b.hi) := by
  unfold PortRange.Apart at h
  bv_omega

theorem portMap_apart : portMap.Pairwise PortRange.Apart := by
  have h : portMap.Pairwise (fun a b => a.hi < b.lo) := by decide
  exact h.imp Or.inl

/-- With at most one range to a port, the order of the ranges does not say which handler a port has. -/
theorem handlerAt_perm {l₁ l₂ : List PortRange} (h : l₁.Perm l₂) (hd : l₁.Pairwise PortRange.Apart) (p : BitVec 16) :
    handlerAt l₁ p = handlerAt l₂ p := by
  refine congrArg _ (List.find?_eq_find?_of_perm h ?_)
  rintro a ⟨ha, hpa⟩ b ⟨hb, hpb⟩
  have : Std.Symm PortRange.Apart := ⟨fun _ _ hab => hab.symm⟩
  by_contra hne
  exact (hd.forall ha hb hne).not_both ((a.covers_iff p).1 hpa) ((b.covers_iff p).1 hpb)

/-! ## What the handlers answer (R165) -/

/-- The reasons a handler, or an instruction of its device, raises: all but those of start-up and of the port map (40_dispatch.md
R161, R162, R164). -/
def FatalReason.ofHandler : FatalReason → Bool
  | .duplicatePortRegistration | .backingFileUnopenable | .unclaimedPort => false
  | _ => true

/-- An arm that answers an instruction is not where an error came from. -/
theorem error_of_ite_ok {c : Prop} [Decidable c] {i : Instr} {r : Except FatalReason Instr} {x : FatalReason}
    (h : (if c then .ok i else r) = .error x) : r = .error x := by
  split at h
  · cases h
  · exact h

theorem decodePic_error {c : SeqState} {u : PicUnit} {p : BitVec 16} {w : Wire} {x : FatalReason}
    (h : decodePic c u p w = .error x) : x.ofHandler = true := by
  unfold decodePic at h
  split at h
  · split at h <;> cases h; rfl
  · split at h
    · split at h <;> cases h
    · cases h; rfl

theorem decodePit_error {c : SeqState} {w : Wire} {x : FatalReason} (h : decodePit c w = .error x) : x.ofHandler = true := by
  unfold decodePit at h
  split at h
  · split at h <;> cases h; rfl
  · split_ifs at h; cases h; rfl

theorem decodeKbcCommand_error {e : KbcExpect} {b : Byte} {x : FatalReason} (h : decodeKbcCommand e b = .error x) :
    x.ofHandler = true := by
  unfold decodeKbcCommand at h
  repeat replace h := error_of_ite_ok h
  split at h <;> cases h <;> rfl

theorem decodeKbcData_error {c : SeqState} {b : Byte} {x : FatalReason} (h : decodeKbcData c b = .error x) :
    x.ofHandler = true := by
  unfold decodeKbcData at h
  split at h
  · cases h
  · cases h
  · split at h
    · cases h; rfl
    · split at h
      · cases h
      · split_ifs at h; cases h; rfl

theorem decodeKbc_error {c : SeqState} {w : Wire} {x : FatalReason} (h : decodeKbc c w = .error x) : x.ofHandler = true := by
  unfold decodeKbc at h
  split at h
  · split at h
    · exact decodeKbcData_error h
    · cases h
  · split at h
    · split at h
      · exact decodeKbcCommand_error h
      · cases h
    · cases h; rfl

theorem decodeAtaCommand_error {busy : Bool} {b : Byte} {x : FatalReason} (h : decodeAtaCommand busy b = .error x) :
    x.ofHandler = true := by
  unfold decodeAtaCommand at h
  repeat replace h := error_of_ite_ok h
  split at h <;> cases h <;> rfl

theorem decodeAtaData_error {w : Wire} {x : FatalReason} (h : decodeAtaData w = .error x) : x.ofHandler = true := by
  unfold decodeAtaData at h
  split at h <;> cases h
  rfl

theorem decodeAta_error {c : SeqState} {w : Wire} {x : FatalReason} (h : decodeAta c w = .error x) : x.ofHandler = true := by
  unfold decodeAta at h
  split at h
  · exact decodeAtaData_error h
  · split at h
    · split_ifs at h
      · exact decodeAtaCommand_error h
      · cases h; rfl
    · split_ifs at h; cases h; rfl

theorem decodeDma_error {k : DmaUnit} {p q r : BitVec 16} {w : Wire} {x : FatalReason} (h : decodeDma k p q r w = .error x) :
    x.ofHandler = true := by
  unfold decodeDma at h
  split at h
  · cases h; rfl
  · split_ifs at h; cases h; rfl

theorem decodePci_error {w : Wire} {x : FatalReason} (h : decodePci w = .error x) : x.ofHandler = true := by
  unfold decodePci at h
  split at h
  · split at h <;> cases h
  · split at h
    · split at h <;> cases h
    · cases h; rfl

theorem decodeCmos_error {w : Wire} {x : FatalReason} (h : decodeCmos w = .error x) : x.ofHandler = true := by
  unfold decodeCmos at h
  split at h
  · split at h <;> cases h; rfl
  · split at h
    · split at h <;> cases h
    · cases h; rfl

/-- 44_ata.md R354: the one error of a CDB is F05. -/
theorem decodeCdb_error {l : List Byte} {x : FatalReason} (h : decodeCdb l = .error x) : x.ofHandler = true := by
  unfold decodeCdb at h
  split_ifs at h
  cases h; rfl

/-- R165: whichever handler decodes, it never answers F03. -/
theorem decodeHandler_error {c : SeqState} {y : Handler} {w : Wire} {x : FatalReason} (h : decodeHandler c y w = .error x) :
    x.ofHandler = true := by
  cases y with
  | pic0 | pic1 => exact decodePic_error h
  | pit => exact decodePit_error h
  | kbc => exact decodeKbc_error h
  | ata => exact decodeAta_error h
  | ata2 => cases h; rfl
  | dma0 | dma1 => exact decodeDma_error h
  | pci => exact decodePci_error h
  | cmos => exact decodeCmos_error h

theorem decodePort_unclaimed {c : SeqState} {w : Wire} (h : handlerAt c.ports w.port = none) :
    decodePort c w = .error .unclaimedPort := by
  rw [decodePort, h]

theorem decodePort_error {c : SeqState} {w : Wire} {x : FatalReason} (hc : handlerAt c.ports w.port ≠ none)
    (h : decodePort c w = .error x) : x.ofHandler = true := by
  unfold decodePort at h
  split at h
  · next hn => exact absurd hn hc
  · split at h
    · exact decodeHandler_error h
    · cases h; rfl

end Sys2Proof

namespace Sys2Proof.Machine

/-! ## What an instruction can come to (60_exceptions.md R421) -/

/-- The body of a step from `s`: a state with no other fatal recorded than in `s`, or a handler's reason. -/
def Handled (s : State) : Result → Prop
  | .ok t => t.fatal = s.fatal
  | .error x => x.ofHandler = true

/-- An instruction's outcome in `s`: a next state that either records no new fatal, or is `s` abandoned for a handler's reason. -/
def Resolves (s : State) (o : Host.Outcome State Fault Refusal) : Prop :=
  ∃ t, o = .next t ∧ (t.fatal = s.fatal ∨ ∃ x, x.ofHandler = true ∧ t = raiseFatal x s)

theorem Resolves.next {s t : State} (h : t.fatal = s.fatal) : Resolves s (.next t) := ⟨t, rfl, .inl h⟩

theorem Resolves.raise {s : State} {x : FatalReason} (h : x.ofHandler = true) : Resolves s (.next (raiseFatal x s)) :=
  ⟨_, rfl, .inr ⟨x, h, rfl⟩⟩

theorem Resolves.commit {s : State} {r : Result} (h : Handled s r) : Resolves s (commit s r) := by
  cases r with
  | ok t => exact .next h
  | error x => exact .raise h

namespace Handled

/-- Of the state a body starts from, only its fatal record matters. -/
theorem of_fatal_eq {s t : State} {r : Result} (h : Handled t r) (hst : t.fatal = s.fatal) : Handled s r := by
  cases r with
  | ok u => exact Eq.trans h hst
  | error x => exact h

theorem bind {s : State} {r : Result} {f : State → Result} (h : Handled s r) (hf : ∀ t, Handled t (f t)) : Handled s (r >>= f) := by
  cases r with
  | ok t => exact (hf t).of_fatal_eq h
  | error x => exact h

theorem picCommand (u : PicUnit) (f : Pic → Pic) (s : State) : Handled s (picCommand u f s) := by
  unfold Machine.picCommand
  split
  · exact State.setPic_fatal s u _
  · rfl

theorem pitWrite (c : PitChan) (f : Pit → Pit) (s : State) : Handled s (pitWrite c f s) := by
  unfold Machine.pitWrite
  split
  · rfl
  · exact State.setPit_fatal s c _

theorem pitRead {c : PitChan} {f : State → State} {s : State} (hf : (f s).fatal = s.fatal) : Handled s (pitRead c f s) := by
  unfold Machine.pitRead
  split
  · rfl
  · exact hf

theorem enqueue (b : Byte) (s : State) : Handled s (enqueue b s) := by
  unfold Machine.enqueue
  split <;> rfl

theorem setKbc (f : Kbc → Kbc) (s : State) : Handled s (setKbc f s) := rfl

theorem kbcCommand {s : State} {r : Result} (h : Handled s r) : Handled s (kbcCommand s r) := by
  unfold Machine.kbcCommand
  split
  · exact h
  · rfl

theorem ataCommand (s : State) (f : Ata → Ata) : Handled s (ataCommand s f) := by
  unfold Machine.ataCommand
  split <;> rfl

theorem cdbRead10 (lba : BitVec 32) (cnt : BitVec 16) (s : State) : Handled s (cdbRead10 lba cnt s) := by
  unfold Machine.cdbRead10
  dsimp only
  split_ifs <;> rfl

theorem cdbExecute (s : State) : Handled s (cdbExecute s) := by
  unfold Machine.cdbExecute
  dsimp only
  split
  · exact (cdbRead10 _ _ _).of_fatal_eq rfl
  · rfl
  · next h => exact decodeCdb_error h

theorem ataDataWrite (n : Nat) (s : State) : Handled s (ataDataWrite n s) := by
  unfold Machine.ataDataWrite
  dsimp only
  split
  · rfl
  · split
    · rfl
    · split
      · exact (cdbExecute _).of_fatal_eq rfl
      · rfl

theorem ataDataRead (n : Nat) (s : State) : Handled s (ataDataRead n s) := by
  unfold Machine.ataDataRead
  split <;> rfl

theorem ataDevctl (b : Byte) (s : State) : Handled s (ataDevctl b s) := by
  unfold Machine.ataDevctl
  split_ifs <;> rfl

theorem pciAccess {size : Size} {lane : BitVec 2} {r s : State} (h : r.fatal = s.fatal) : Handled s (pciAccess size lane r s) := by
  unfold Machine.pciAccess
  split
  · rfl
  · exact h

end Handled

theorem readbackAll_fatal (countN statusN : Bool) (sel : BitVec 3) (s : State) :
    (readbackAll countN statusN sel s).fatal = s.fatal := by
  obtain ⟨_, _, _, _, h⟩ := readbackAll_pit_only countN statusN sel s
  rw [h]

theorem deliverFrom_fatal (u : PicUnit) (s : State) : (deliverFrom u s).fatal = s.fatal := by
  unfold deliverFrom
  split
  · rfl
  · exact State.setPic_fatal s u _

/-- No instruction is refused or faults; it either completes or is abandoned for a handler's reason. -/
theorem exec_resolves (i : Instr) (s : State) : Resolves s (exec i s) := by
  cases i with
  | picIcw1 | picNseoi | picSeoi | picRotNseoi | picRotSeoi | picSetpri | picRotAeoiSet | picRotAeoiClr | picOcw2Nop | picOcw3 =>
    exact .commit (.picCommand _ _ s)
  | picIcw2 | picIcw3 | picIcw4 | picOcw1 => exact .next (State.setPic_fatal s _ _)
  | picDataRead | kbcStatusRead | ataLatchRead | ataErrorRead | ataStatusRead | ataAltstatusRead | pciAddrRead | cmosDataRead =>
    exact .next (State.reply_fatal s _)
  | pitCw | pitLatch => exact .next (State.setPit_fatal s _ _)
  | pitReadback => exact .next (readbackAll_fatal _ _ _ s)
  | pitWLsb | pitWMsb | pitWLow | pitWHigh => exact .commit (.pitWrite _ _ s)
  | pitDataRead => exact .next (State.setPit_fatal s _ _)
  | pitRLatched | pitRLive => exact .commit (.pitRead (State.setPit_fatal s _ _))
  | kbcDataRead =>
    show Resolves s (execKbcDataRead s)
    unfold execKbcDataRead
    split <;> exact .next rfl
  | kbcReadConfig | kbcTestPort1 | kbcReadOutport => exact .commit (.kbcCommand (.enqueue _ s))
  | kbcWriteConfig | kbcDisablePort2 | kbcEnablePort2 | kbcDisablePort1 | kbcEnablePort1 | kbcWriteOutport =>
    exact .commit (.kbcCommand (.setKbc _ s))
  | kbcSelfTest => exact .commit (.kbcCommand (.bind (.enqueue _ s) (.setKbc _)))
  | kbdScansetArg | kbdSetScanset => exact .commit (.bind (.enqueue _ s) (.setKbc _))
  | kbdEnableScan | kbdDisableScan => exact .commit (.enqueue _ s)
  | kbdReset => exact .commit (.bind (.enqueue _ s) fun _ => .bind (.setKbc _ _) (.enqueue _))
  | ataNop | ataIdentifyPacket | ataIdentify | ataPacket => exact .commit (.ataCommand s _)
  | ataDataWrite => exact .commit (.ataDataWrite _ s)
  | ataDataRead => exact .commit (.ataDataRead _ s)
  | ataDevctl => exact .commit (.ataDevctl _ s)
  | cdbRead10 => exact .commit (.cdbRead10 _ _ s)
  | dmaMode | dmaSingleMask | dmaMasterReset => exact .next (State.setDma_fatal s _ _)
  | pciDataRead => exact .commit (.pciAccess (State.reply_fatal s _))
  | pciDataWrite => exact .commit (.pciAccess rfl)
  | kbcConfigPayload | kbcOutportPayload | ataLatchWrite | cdbTestUnitReady | pciAddrWrite | cmosIndex | cmosDataWrite | pitTick
  | hostPending => exact .next rfl
  | picTick ie =>
    cases ie with
    | false => exact .next rfl
    | true => exact .next ((deliverFrom_fatal _ _).trans (deliverFrom_fatal _ s))
  | ataIdentifyDone =>
    show Resolves s (execAtaIdentifyDone s)
    unfold execAtaIdentifyDone
    split <;> exact .next rfl
  | hostTake => exact .next (deliverFrom_fatal _ s)

/-! ## The step (R164, R165, R167) -/

theorem step_terminated {s : State} {r : FatalRecord} (h : s.fatal = some r) : step s = .fault (.terminated r.reason) := by
  rw [step, h]

theorem step_idle {s : State} (hf : s.fatal = none) (hi : s.inputs = []) : step s = .next s := by
  rw [step, hf, hi]

theorem step_next {s : State} {i : Input} {rest : List Input} (hf : s.fatal = none) (hi : s.inputs = i :: rest) :
    (∃ x, fetchInstr (deliver s i rest) i = .ok x ∧ step s = exec x (deliver s i rest)) ∨
    (∃ x, fetchInstr (deliver s i rest) i = .error x ∧ step s = .next (raiseFatal x (deliver s i rest))) := by
  simp only [step, hf, hi]
  cases fetchInstr (deliver s i rest) i with
  | ok x => exact .inl ⟨x, rfl, rfl⟩
  | error x => exact .inr ⟨x, rfl, rfl⟩

theorem step_of_fetch_ok {s : State} {i : Input} {rest : List Input} {x : Instr} (hf : s.fatal = none) (hi : s.inputs = i :: rest)
    (hx : fetchInstr (deliver s i rest) i = .ok x) : step s = exec x (deliver s i rest) := by
  obtain ⟨y, hy, h⟩ | ⟨y, hy, -⟩ := step_next hf hi
  · rw [h, Except.ok.inj (hy.symm.trans hx)]
  · cases hy.symm.trans hx

/-- Settles O1: `deliver` is the state written out in the statement, and `fetchInstr` decodes in it. -/
theorem stepRunsDecoded : Obligations.StepRunsDecoded := by
  constructor
  · intro s d host rest i hf hi _ t hd
    exact step_of_fetch_ok hf hi hd
  · intro s a rest hf hi
    exact step_of_fetch_ok hf hi rfl

/-- Settles O2: by `step`'s three branches; an instruction's outcome is a next state. -/
theorem nothingFollowsFatal : Obligations.NothingFollowsFatal := by
  refine ⟨fun s r => step_terminated, fun s => step_idle, fun s x hx => ?_⟩
  cases hf : s.fatal with
  | some r => cases (step_terminated hf).symm.trans hx
  | none =>
    cases hi : s.inputs with
    | nil => cases (step_idle hf hi).symm.trans hx
    | cons i rest =>
      obtain ⟨y, -, h⟩ | ⟨y, -, h⟩ := step_next hf hi
      · obtain ⟨t, ht, -⟩ := exec_resolves y (deliver s i rest)
        cases (h.trans ht).symm.trans hx
      · cases h.symm.trans hx

section Transaction

variable {s : State} {d : Descriptor} {host : List Byte} {rest : List Input}

theorem step_unclaimed (h : Awaits s (.trap d host) rest) (hc : handlerAt portMap d.port = none) :
    step s = .next (raiseFatal .unclaimedPort (deliver s (.trap d host) rest)) := by
  rw [← h.ports_fixed] at hc
  exact step_error h (decodePort_unclaimed hc)

/-- At a claimed port the outcome is the handler's: never F03. -/
theorem step_claimed (h : Awaits s (.trap d host) rest) (hc : handlerAt portMap d.port ≠ none) :
    Resolves (deliver s (.trap d host) rest) (step s) := by
  rw [← h.ports_fixed] at hc
  obtain ⟨x, -, hx⟩ | ⟨x, hf, hx⟩ := step_next h.alive h.next_input
  · exact hx ▸ exec_resolves x _
  · exact hx ▸ .raise (decodePort_error hc hf)

end Transaction

theorem raiseFatal_reason {x y : FatalReason} {s : State} (h : raiseFatal x s = raiseFatal y s) : x = y :=
  congrArg FatalRecord.reason (Option.some.inj (congrArg State.fatal h))

/-- An outcome that only a handler has is not F03. -/
theorem Resolves.not_unclaimed {s : State} {o : Host.Outcome State Fault Refusal} (h : Resolves s o) (hs : s.fatal = none) :
    o ≠ .next (raiseFatal .unclaimedPort s) := by
  obtain ⟨t, rfl, ht⟩ := h
  intro heq
  cases heq
  obtain hf | ⟨x, hx, hr⟩ := ht
  · cases hf.trans hs
  · cases raiseFatal_reason hr
    cases hx

/-- Settles O8: outside the map the decoder answers F03, and inside it `step_claimed` rules F03 out. -/
theorem unclaimedPortIsFatal : Obligations.UnclaimedPortIsFatal := by
  intro s d host rest h
  show _ ↔ ¬ InPortMap d.port
  rw [← handlerAt_portMap_iff, not_not]
  refine ⟨fun hstep => ?_, step_unclaimed h⟩
  by_contra hc
  exact (step_claimed h hc).not_unclaimed ((deliver_fatal ..).trans h.alive) hstep

/-- Settles O9: outside the rows `accepted` is false, whatever the payload. -/
theorem unmappedAccessIsFatal : Obligations.UnmappedAccessIsFatal := by
  intro s d host rest h hport hrow
  refine step_unaccepted h ((handlerAt_portMap_iff d.port).2 hport) fun imm => ?_
  exact Bool.eq_false_iff.2 (mt (accepted_iff d imm).1 hrow)

/-! ## Start-up (R161 to R163) -/

theorem mem_portsOf (r : PortRange) (p : BitVec 16) : p ∈ portsOf r ↔ r.lo ≤ p ∧ p ≤ r.hi := by
  rw [portsOf, List.mem_map]
  constructor
  · rintro ⟨i, hi, rfl⟩
    rw [List.mem_range] at hi
    bv_omega
  · rintro ⟨hlo, hhi⟩
    exact ⟨p.toNat - r.lo.toNat, List.mem_range.2 (by bv_omega), by bv_omega⟩

theorem portsOf_rising (r : PortRange) : (portsOf r).Pairwise (· < ·) := by
  refine List.pairwise_map.2 (List.pairwise_lt_range.imp_of_mem fun {i j} _ hj hij => ?_)
  rw [List.mem_range] at hj
  bv_omega

theorem claimedPort_none_iff (ports : List PortRange) (r : PortRange) :
    claimedPort ports r = none ↔ ∀ p, r.lo ≤ p → p ≤ r.hi → handlerAt ports p = none := by
  simp [claimedPort, mem_portsOf]

/-- R161: the port named is the lowest of the range that is claimed. -/
theorem claimedPort_eq_some {ports : List PortRange} {r : PortRange} {p : BitVec 16} (hlo : r.lo ≤ p) (hhi : p ≤ r.hi)
    (hp : handlerAt ports p ≠ none) (hmin : ∀ q, r.lo ≤ q → q < p → handlerAt ports q = none) : claimedPort ports r = some p := by
  cases hc : claimedPort ports r with
  | none => exact absurd ((claimedPort_none_iff ports r).1 hc p hlo hhi) hp
  | some q =>
    obtain ⟨hq, hfirst⟩ := find?_pairwise (portsOf_rising r) hc
    have hlq := ((mem_portsOf r q).1 (List.mem_of_find?_eq_some hc)).1
    obtain heq | hlt := hfirst p ((mem_portsOf r p).2 ⟨hlo, hhi⟩) (Option.isSome_iff_ne_none.2 hp)
    · rw [heq]
    · exact absurd (hmin q hlq hlt) (Option.isSome_iff_ne_none.1 hq)

theorem register_unopenable {g : Registration} {s : State} (hf : s.fatal = none) (hg : g.init = some .ata) :
    register false g s = recordFatal (startupRecord .backingFileUnopenable none) s := by
  simp [register, hf, hg]

theorem register_duplicate {b : Bool} {g : Registration} {s : State} {p : BitVec 16} (hf : s.fatal = none)
    (hg : g.init = some .ata → b = true) (hp : claimedPort s.ports g.range = some p) :
    register b g s = recordFatal (startupRecord .duplicatePortRegistration (some p)) s := by
  have hopen : ¬ (g.init = some .ata ∧ b = false) := fun ⟨hi, hb⟩ => by rw [hg hi] at hb; cases hb
  simp [register, hf, hopen, hp]

/-- Settles O22: F01 by the lowest claimed port, F02 by the check that stands before it. -/
theorem registrationErrors : Obligations.RegistrationErrors := by
  refine ⟨fun b g s p hf hg hlo hhi hp hmin => ?_, fun g s hf hg => register_unopenable hf hg⟩
  exact register_duplicate hf hg (claimedPort_eq_some hlo hhi hp hmin)

/-- What a registration that is accepted does to the devices. -/
def runInit (g : Registration) (s : State) : State := g.init.elim s (initDevice · s)

theorem initDevice_fatal (x : Handler) (s : State) : (initDevice x s).fatal = s.fatal := by cases x <;> rfl

theorem initDevice_setPorts (x : Handler) (s : State) (l : List PortRange) :
    initDevice x { s with ports := l } = { initDevice x s with ports := l } := by cases x <;> rfl

/-- Each device is set to values that depend on the parameters alone, and no two handlers set one device to different values. -/
theorem initDevice_comm (x y : Handler) (s : State) : initDevice x (initDevice y s) = initDevice y (initDevice x s) := by
  cases x <;> cases y <;> rfl

theorem runInit_fatal (g : Registration) (s : State) : (runInit g s).fatal = s.fatal := by
  unfold runInit
  cases g.init with
  | none => rfl
  | some x => exact initDevice_fatal x s

theorem runInit_setPorts (g : Registration) (s : State) (l : List PortRange) :
    runInit g { s with ports := l } = { runInit g s with ports := l } := by
  unfold runInit
  cases g.init with
  | none => rfl
  | some x => exact initDevice_setPorts x s l

theorem runInit_comm (g k : Registration) (s : State) : runInit g (runInit k s) = runInit k (runInit g s) := by
  unfold runInit
  cases g.init with
  | none => rfl
  | some x =>
    cases k.init with
    | none => rfl
    | some y => exact initDevice_comm x y s

theorem register_fresh {g : Registration} {s : State} (hf : s.fatal = none) (hp : claimedPort s.ports g.range = none) :
    register true g s = { runInit g s with ports := s.ports ++ [g.range] } := by
  simp only [register, hf, hp, runInit, Option.isSome_none, Bool.true_eq_false, Bool.false_eq_true, and_false, if_false]
  cases g.init <;> rfl

/-- The devices after the given registrations, each accepted. -/
def runInits (order : List Registration) (s : State) : State := order.foldl (fun t g => runInit g t) s

theorem runInits_setPorts (order : List Registration) (s : State) (l : List PortRange) :
    runInits order { s with ports := l } = { runInits order s with ports := l } := by
  induction order generalizing s with
  | nil => rfl
  | cons g rest ih =>
    show runInits rest (runInit g _) = _
    rw [runInit_setPorts, ih]
    rfl

theorem runInits_perm {l₁ l₂ : List Registration} (h : l₁.Perm l₂) (s : State) : runInits l₁ s = runInits l₂ s :=
  h.foldl_eq' (fun g _ k _ t => runInit_comm k g t) s

theorem claimedPort_of_apart {ports : List PortRange} {r : PortRange} (h : ∀ a ∈ ports, a.Apart r) : claimedPort ports r = none := by
  refine (claimedPort_none_iff ports r).2 fun p hlo hhi => ?_
  by_contra hc
  obtain ⟨a, ha, hp⟩ := (handlerAt_ne_none_iff ports p).1 hc
  exact (h a ha).not_both hp ⟨hlo, hhi⟩

/-- Ranges pairwise apart: no registration raises, whatever their order. -/
theorem foldl_register (order : List Registration) (s : State) (hf : s.fatal = none)
    (hd : (s.ports ++ order.map (·.range)).Pairwise PortRange.Apart) :
    order.foldl (fun t g => register true g t) s =
      { runInits order s with ports := s.ports ++ order.map (·.range) } := by
  induction order generalizing s with
  | nil => simp [runInits]
  | cons g rest ih =>
    have hg : claimedPort s.ports g.range = none :=
      claimedPort_of_apart fun a ha => (List.pairwise_append.1 hd).2.2 a ha _ (List.mem_cons_self ..)
    rw [List.map_cons, List.append_cons] at hd ⊢
    have hfresh := ih { runInit g s with ports := s.ports ++ [g.range] } ((runInit_fatal g s).trans hf) hd
    rw [List.foldl_cons, register_fresh hf hg, hfresh, runInits_setPorts]
    rfl

/-- R162: the registrations' ranges are the port map's. -/
theorem ranges_perm {order : List Registration} (h : order.Perm registrations) : (order.map (·.range)).Perm portMap :=
  h.map (·.range)

theorem startUp_perm {order : List Registration} (h : order.Perm registrations) (s : State) :
    startUp true order s =
      { runInits registrations { s with ports := [], fatal := none, events := [] } with ports := order.map (·.range) } := by
  have hd : (order.map (·.range)).Pairwise PortRange.Apart :=
    ((ranges_perm h).pairwise_iff PortRange.Apart.symm).2 portMap_apart
  rw [startUp, foldl_register order _ rfl (by exact hd), runInits_perm h]
  rfl

/-- Settles O21: each order ends in the same devices (`startUp_perm`) and a permuted port map. -/
theorem startUpInAnyOrder : Obligations.StartUpInAnyOrder := by
  intro order s h
  refine ⟨order.map (·.range), ?_, fun p => ?_⟩
  · rw [startUp_perm h, startUp_perm (List.Perm.refl _)]
  · exact (handlerAt_perm (ranges_perm h).symm portMap_apart p).symm

end Sys2Proof.Machine
end

section
/-! SUPPORT. The interrupt controller's family (41_pic.md): its commands, taking and raising an interrupt, and the fields nothing reads. -/

namespace Sys2Proof.Machine

/-! ## Commands on the command port (R181, R136) -/

/-- The step of a command whose unit is initialized: the unit alone changes. -/
theorem commit_picCommand_ok {u : PicUnit} {s : State} (h : (s.pic u).init = .icw1) (f : Pic → Pic) :
    commit s (picCommand u f s) = .next (s.setPic u (f (s.pic u))) := by
  rw [picCommand_ok h, commit_ok]

/-- R181: mid-sequence the command is F08. -/
theorem commit_picCommand_error {u : PicUnit} {s : State} (h : (s.pic u).init ≠ .icw1) (f : Pic → Pic) :
    commit s (picCommand u f s) = .next (raiseFatal .initSequenceViolation s) := by
  rw [picCommand_error h, commit_error]

/-- Whatever its byte, a command-port write is a change of its unit under R181's check. -/
theorem exec_decodePicCommand (u : PicUnit) (b : Byte) (s : State) :
    ∃ f, exec (decodePicCommand u b) s = commit s (picCommand u f s) := by
  unfold decodePicCommand
  dsimp only
  split_ifs <;> exact ⟨_, rfl⟩

theorem ocw2Code_toNat (b : Byte) : b.toNat / 32 = (b.extractLsb' 5 3).toNat := by
  have := b.isLt
  rw [BitVec.extractLsb'_toNat, Nat.shiftRight_eq_div_pow]
  omega

theorem ocw2Code_cases (code : BitVec 3) :
    code = 0 ∨ code = 1 ∨ code = 2 ∨ code = 3 ∨ code = 4 ∨ code = 5 ∨ code = 6 ∨ code = 7 := by
  revert code; decide

theorem ocw2Level_eq (b : Byte) : b.extractLsb' 0 3 = b.setWidth 3 := by
  apply BitVec.eq_of_toNat_eq
  rw [BitVec.extractLsb'_toNat, Nat.shiftRight_zero, BitVec.toNat_setWidth]

theorem fetch_picCommand {u : PicUnit} {off : BitVec 64} {b : Byte} {s : State} {rest : List Input}
    (h : Awaits s (outByte u.commandPort off b) rest) :
    fetchInstr (deliver s (outByte u.commandPort off b) rest) (outByte u.commandPort off b) = .ok (decodePicCommand u b) := by
  cases u with
  | primary =>
    obtain ⟨imm, rfl, hf⟩ := fetch_out (hd := .pic0) h rfl fun _ => rfl
    exact hf
  | secondary =>
    obtain ⟨imm, rfl, hf⟩ := fetch_out (hd := .pic1) h rfl fun _ => rfl
    exact hf

theorem fetch_picData {u : PicUnit} {off : BitVec 64} {b : Byte} {s : State} {rest : List Input}
    (h : Awaits s (outByte u.dataPort off b) rest) :
    fetchInstr (deliver s (outByte u.dataPort off b) rest) (outByte u.dataPort off b) = .ok (decodePicData (s.pic u).init u b) := by
  cases u with
  | primary =>
    obtain ⟨imm, rfl, hf⟩ := fetch_out (hd := .pic0) h rfl fun _ => rfl
    exact hf
  | secondary =>
    obtain ⟨imm, rfl, hf⟩ := fetch_out (hd := .pic1) h rfl fun _ => rfl
    exact hf

theorem fetch_picDataRead {u : PicUnit} {off : BitVec 64} {host : List Byte} {s : State} {rest : List Input}
    (h : Awaits s (inByte u.dataPort off host) rest) :
    fetchInstr (deliver s (inByte u.dataPort off host) rest) (inByte u.dataPort off host) = .ok (.picDataRead u) := by
  cases u with
  | primary =>
    obtain ⟨imm, hf⟩ := fetch_in (hd := .pic0) h rfl fun _ => rfl
    exact hf
  | secondary =>
    obtain ⟨imm, hf⟩ := fetch_in (hd := .pic1) h rfl fun _ => rfl
    exact hf

@[simp] theorem deliver_pic (s : State) (i : Input) (rest : List Input) (u : PicUnit) : (deliver s i rest).pic u = s.pic u := by
  cases u <;> simp

/-- Settles O31: mid-sequence by R181's check, whatever the command; otherwise by the bits `decodePicCommand` tests. -/
theorem picCommandPort : Obligations.PicCommandPort := by
  intro u b off s rest i h
  have hport : i = outByte u.commandPort off b := by cases u <;> rfl
  rw [hport] at h ⊢
  have hstep : step s = exec (decodePicCommand u b) (deliver s (outByte u.commandPort off b) rest) :=
    step_ok h (fetch_picCommand h)
  rw [hstep]
  constructor
  · intro hinit
    obtain ⟨f, hf⟩ := exec_decodePicCommand u b (deliver s (outByte u.commandPort off b) rest)
    rw [hf, commit_picCommand_error (by rwa [deliver_pic])]
  · intro _
    congr 1
    unfold decodePicCommand
    rw [ocw2Level_eq, ocw2Code_toNat]
    dsimp only
    split
    · rfl
    · split
      · rfl
      · obtain h | h | h | h | h | h | h | h := ocw2Code_cases (b.extractLsb' 5 3) <;> rw [h] <;> rfl

/-- Settles O59: the decoder reads the unit's cursor for a write and nothing for a read. -/
theorem picDataPort : Obligations.PicDataPort := by
  intro u b off host s rest port w r
  have hport : port = u.dataPort := by cases u <;> rfl
  have hw : w = outByte u.dataPort off b := congrArg (outByte · off b) hport
  have hr : r = inByte u.dataPort off host := congrArg (inByte · off host) hport
  rw [hw, hr]
  refine ⟨fun h => ?_, fun h => step_ok h (fetch_picDataRead h)⟩
  rw [step_ok h (fetch_picData h)]
  refine ⟨?_, ?_, ?_, ?_⟩ <;> exact fun hinit => by rw [hinit]; rfl

/-! ## What the commands do to an initialized unit -/

/-- Settles O27: ICW1 is a command of R181, the other words need no check. -/
theorem picCommandWords : Obligations.PicCommandWords :=
  fun _ _ _ => ⟨fun hinit => commit_picCommand_ok hinit _, rfl, rfl, rfl, rfl⟩

theorem Pic.nonSpecificEoi_none {p : Pic} (h : p.isr = 0) : p.nonSpecificEoi = p := by
  rw [Pic.nonSpecificEoi, (firstIn_none _ _).2 h]

theorem Pic.rotateNonSpecificEoi_none {p : Pic} (h : p.isr = 0) : p.rotateNonSpecificEoi = p := by
  rw [Pic.rotateNonSpecificEoi, (firstIn_none _ _).2 h]

theorem Pic.nonSpecificEoi_some {p : Pic} {l : BitVec 3} (h : firstIn p.prio p.isr = some l) :
    p.nonSpecificEoi = { p with isr := clearLevel p.isr l } := by
  rw [Pic.nonSpecificEoi, h]

theorem Pic.rotateNonSpecificEoi_some {p : Pic} {l : BitVec 3} (h : firstIn p.prio p.isr = some l) :
    p.rotateNonSpecificEoi = { p with isr := clearLevel p.isr l, prio := l } := by
  rw [Pic.rotateNonSpecificEoi, h]

theorem exec_picNseoi {u : PicUnit} {s : State} (h : (s.pic u).init = .icw1) :
    exec (.picNseoi u) s = .next (s.setPic u (s.pic u).nonSpecificEoi) := commit_picCommand_ok h _

theorem exec_picRotNseoi {u : PicUnit} {s : State} (h : (s.pic u).init = .icw1) :
    exec (.picRotNseoi u) s = .next (s.setPic u (s.pic u).rotateNonSpecificEoi) := commit_picCommand_ok h _

/-- Settles O28: the level that ends is `firstIn` of the levels in service. -/
theorem picNonSpecificEoi : Obligations.PicNonSpecificEoi := by
  intro u s p hinit
  rw [exec_picNseoi hinit, exec_picRotNseoi hinit]
  constructor
  · intro hisr
    rw [Pic.nonSpecificEoi_none hisr, Pic.rotateNonSpecificEoi_none hisr, State.setPic_self]
    exact ⟨rfl, rfl⟩
  · intro hisr
    obtain ⟨l, hl, hfirst⟩ := firstIn_some (p := p.prio) hisr
    rw [Pic.nonSpecificEoi_some hl, Pic.rotateNonSpecificEoi_some hl]
    exact ⟨l, _, hfirst, bitWritten_clearLevel _ _, rfl, rfl⟩

/-- Settles O29: each command by the change of its unit that R181 lets through. -/
theorem picOcw2 : Obligations.PicOcw2 := by
  intro u l s p hinit
  refine ⟨⟨_, bitWritten_clearLevel p.isr l, ?_, ?_⟩, ?_, ?_, ?_, ?_⟩
  case refine_6 => exact (commit_picCommand_ok hinit _).trans (by rw [State.setPic_self])
  all_goals exact commit_picCommand_ok hinit _

theorem ocw3Target_eq (b : Byte) :
    ocw3Target b = if b.getLsbD 1 = false then .imr else if b.getLsbD 0 = true then .isr else .irr := by
  unfold ocw3Target
  cases b.getLsbD 1 <;> rfl

theorem Pic.selected_eq (p : Pic) : p.selected = if p.rsel = .imr then p.imr else if p.rsel = .irr then p.irr else p.isr := by
  unfold Pic.selected
  cases p.rsel <;> rfl

/-- Settles O30: OCW3 is a command of R181; the read answers the register `rsel` names. -/
theorem picOcw3AndRead : Obligations.PicOcw3AndRead := by
  intro u b s p
  refine ⟨fun hinit => ?_, fun hmem => ?_⟩
  · rw [← ocw3Target_eq]
    exact commit_picCommand_ok hinit _
  · rw [← Pic.selected_eq]
    exact ⟨_, rfl, answers_reply hmem _⟩

/-! ## Taking and raising an interrupt (R210 to R214) -/

theorem deliverFrom_none {u : PicUnit} {s : State} (h : (s.pic u).take = none) : deliverFrom u s = s := by
  rw [deliverFrom, h]

theorem deliverFrom_some {u : PicUnit} {s : State} {v : Byte} {p : Pic} (h : (s.pic u).take = some (v, p)) :
    deliverFrom u s = { s.setPic u p with events := s.events ++ [.inject v] } := by
  rw [deliverFrom, h]
  dsimp only
  rw [State.setPic_events]

theorem exec_hostTake (u : PicUnit) (s : State) : exec (.hostTake u) s = .next (deliverFrom u s) := rfl

theorem exec_picTick_true (s : State) : exec (.picTick true) s = .next (deliverFrom .secondary (deliverFrom .primary s)) := rfl

theorem exec_hostPending (u : PicUnit) (s : State) :
    exec (.hostPending u) s = .next { s with hostAnswer := some ((s.pic u).pending != 0) } := rfl

/-- R211: the vector is the base plus the level, modulo 256. -/
theorem vector_eq (base : Byte) (l : BitVec 3) :
    base + l.setWidth 8 = BitVec.ofNat 8 ((base.toNat + l.toNat) % 256) := by
  bv_omega

/-- Settles O32: a delivery is `Pic.take`, whose two outcomes `take_none` and `take_some` say. -/
theorem picTake : Obligations.PicTake := by
  intro u s p
  rw [exec_hostTake]
  constructor
  · intro hnone
    rw [deliverFrom_none (take_none hnone)]
  · intro hsome
    obtain ⟨l, v, w, hfirst, hv, hw, htake⟩ := take_some hsome
    rw [deliverFrom_some htake, vector_eq]
    exact ⟨l, v, w, hfirst, hv, hw, rfl⟩

theorem Pic.pending_bne_zero (p : Pic) : (p.pending != 0) = decide (p.irr &&& ~~~ p.imr ≠ 0) := by
  rw [Pic.pending, Bool.eq_iff_iff, bne_iff_ne, decide_eq_true_iff]

/-- Settles O33: `deliverFrom` is total, and a tick composes two of them. -/
theorem picTickAndPending : Obligations.PicTickAndPending :=
  ⟨fun _ => rfl, fun s => ⟨_, exec_hostTake .primary s, exec_picTick_true s, _, exec_hostTake .secondary _⟩,
    fun u s => by rw [exec_hostPending, Pic.pending_bne_zero]⟩

theorem irqUnit_iff {n : Nat} (h : n ≤ 15) : (BitVec.ofNat 4 n).getLsbD 3 = decide (8 ≤ n) := by
  interval_cases n <;> rfl

theorem irqLevel_eq (n : Nat) : (BitVec.ofNat 4 n).extractLsb' 0 3 = BitVec.ofNat 3 (n % 8) := by
  apply BitVec.eq_of_toNat_eq
  simp only [BitVec.extractLsb'_toNat, BitVec.toNat_ofNat, Nat.shiftRight_zero]
  omega

/-- R210: IRQ 0 to 7 are the primary unit's levels. -/
theorem admitIrq_primary {n : Nat} (h : n < 8) (s : State) :
    admitIrq (BitVec.ofNat 4 n) s = { s with pic0 := s.pic0.admitLevel (BitVec.ofNat 3 (n % 8)) } := by
  rw [admitIrq, irqUnit_iff (by omega), irqLevel_eq, if_neg (by simpa using h)]

/-- R210: IRQ 8 to 15 are the secondary unit's. -/
theorem admitIrq_secondary {n : Nat} (h : 8 ≤ n) (hn : n ≤ 15) (s : State) :
    admitIrq (BitVec.ofNat 4 n) s = { s with pic1 := s.pic1.admitLevel (BitVec.ofNat 3 (n % 8)) } := by
  rw [admitIrq, irqUnit_iff hn, irqLevel_eq, if_pos (by simpa using h)]

/-- R210: raising again at once changes nothing. -/
theorem admitIrq_idem (n : BitVec 4) (s : State) : admitIrq n (admitIrq n s) = admitIrq n s := by
  unfold admitIrq
  split <;> simp only [admit_admit]

/-- Settles O16: an admission writes one request bit (`admit_spec`), in the unit the number's bit 3 names. -/
theorem raiseAdmission : Obligations.RaiseAdmission := by
  refine ⟨fun n s hn => picRaise_error hn s, fun n s hn => ?_⟩
  have hagain : picRaise n (admitIrq (BitVec.ofNat 4 n) s) = .ok (admitIrq (BitVec.ofNat 4 n) s) := by
    rw [picRaise_ok hn, admitIrq_idem]
  by_cases h8 : n < 8
  · obtain ⟨v, hv, hbit⟩ := admit_spec s.pic0 (BitVec.ofNat 3 (n % 8))
    refine ⟨v, _, picRaise_ok hn s, ?_, ?_, hagain⟩
    · rw [admitIrq_primary h8, hv, if_pos h8]
    · rw [if_pos h8]; exact hbit
  · obtain ⟨v, hv, hbit⟩ := admit_spec s.pic1 (BitVec.ofNat 3 (n % 8))
    refine ⟨v, _, picRaise_ok hn s, ?_, ?_, hagain⟩
    · rw [admitIrq_secondary (by omega) hn, hv, if_neg h8]
    · rw [if_neg h8]; exact hbit

end Sys2Proof.Machine
end

section
/-! SUPPORT. 41_pic.md R200: ICW3, the poll and special-mask flags and the unread bits of ICW1 and ICW4 reach nothing else. -/

namespace Sys2Proof.Machine

/-! ## Units and states that agree but in the unread fields -/

/-- `q` is `p` but for ICW3, the two flags, and the bits of ICW1 and ICW4 that no rule reads. -/
def Pic.Alike (p q : Pic) : Prop :=
  p.icw1 &&& 0x03 = q.icw1 &&& 0x03 ∧ p.icw4 &&& 0x02 = q.icw4 &&& 0x02 ∧
  q = { p with icw1 := q.icw1, icw3 := q.icw3, icw4 := q.icw4, poll := q.poll, smm := q.smm }

namespace Pic.Alike

theorem of_icw {p : Pic} {icw1 icw3 icw4 : Byte} {poll smm : Bool} (h1 : p.icw1 &&& 0x03 = icw1 &&& 0x03)
    (h4 : p.icw4 &&& 0x02 = icw4 &&& 0x02) :
    p.Alike { p with icw1 := icw1, icw3 := icw3, icw4 := icw4, poll := poll, smm := smm } := ⟨h1, h4, rfl⟩

/-- What an alike unit is, with the fields that may differ named. -/
theorem cases {p q : Pic} (h : p.Alike q) : ∃ (icw1 icw3 icw4 : Byte) (poll smm : Bool),
    p.icw1 &&& 0x03 = icw1 &&& 0x03 ∧ p.icw4 &&& 0x02 = icw4 &&& 0x02 ∧
    q = { p with icw1 := icw1, icw3 := icw3, icw4 := icw4, poll := poll, smm := smm } :=
  ⟨_, _, _, _, _, h⟩

variable {p q : Pic}

theorem init_eq (h : p.Alike q) : q.init = p.init := by obtain ⟨_, _, _, _, _, -, -, rfl⟩ := h.cases; rfl

theorem prio_eq (h : p.Alike q) : q.prio = p.prio := by obtain ⟨_, _, _, _, _, -, -, rfl⟩ := h.cases; rfl

theorem isr_eq (h : p.Alike q) : q.isr = p.isr := by obtain ⟨_, _, _, _, _, -, -, rfl⟩ := h.cases; rfl

theorem pending_eq (h : p.Alike q) : q.pending = p.pending := by obtain ⟨_, _, _, _, _, -, -, rfl⟩ := h.cases; rfl

theorem selected_eq (h : p.Alike q) : q.selected = p.selected := by obtain ⟨_, _, _, _, _, -, -, rfl⟩ := h.cases; rfl

end Pic.Alike

theorem getLsbD_of_and_eq {v w m : Byte} (h : v &&& m = w &&& m) {i : Nat} (hi : m.getLsbD i = true) : v.getLsbD i = w.getLsbD i := by
  have hbit := congrArg (BitVec.getLsbD · i) h
  simpa [hi] using hbit

theorem initAfterIcw2_congr {v w : Byte} (h : v &&& 0x03 = w &&& 0x03) : initAfterIcw2 v = initAfterIcw2 w := by
  rw [initAfterIcw2, initAfterIcw2, getLsbD_of_and_eq (i := 0) h rfl, getLsbD_of_and_eq (i := 1) h rfl]

theorem initAfterIcw3_congr {v w : Byte} (h : v &&& 0x03 = w &&& 0x03) : initAfterIcw3 v = initAfterIcw3 w := by
  rw [initAfterIcw3, initAfterIcw3, getLsbD_of_and_eq (i := 0) h rfl]

/-- A change of one unit that gives alike units from alike units. -/
def PicRespects (f : Pic → Pic) : Prop := ∀ p q : Pic, p.Alike q → (f p).Alike (f q)

namespace PicRespects

/-- R182 overwrites ICW1 and ICW4 whole, so their old bits do not matter. -/
theorem icw1 (b : Byte) : PicRespects fun p => { p with icw1 := b, icw4 := 0, rsel := .imr, init := .icw2 } := by
  intro p q h
  obtain ⟨_, _, _, _, _, -, -, rfl⟩ := h.cases
  exact .of_icw rfl rfl

theorem icw2 (b : Byte) : PicRespects fun p => { p with icw2 := b, init := initAfterIcw2 p.icw1 } := by
  intro p q h
  obtain ⟨_, _, _, _, _, h1, h4, rfl⟩ := h.cases
  dsimp only
  rw [initAfterIcw2_congr h1]
  exact .of_icw h1 h4

theorem icw3 (b : Byte) : PicRespects fun p => { p with icw3 := b, init := initAfterIcw3 p.icw1 } := by
  intro p q h
  obtain ⟨_, _, _, _, _, h1, h4, rfl⟩ := h.cases
  dsimp only
  rw [initAfterIcw3_congr h1]
  exact .of_icw h1 h4

theorem icw4 (b : Byte) : PicRespects fun p => { p with icw4 := b, init := .icw1 } := by
  intro p q h
  obtain ⟨_, _, _, _, _, h1, -, rfl⟩ := h.cases
  exact .of_icw h1 rfl

theorem ocw1 (b : Byte) : PicRespects fun p => { p with imr := b } := by
  intro p q h
  obtain ⟨_, _, _, _, _, h1, h4, rfl⟩ := h.cases
  exact .of_icw h1 h4

theorem specificEoi (l : BitVec 3) : PicRespects fun p => { p with isr := clearLevel p.isr l } := by
  intro p q h
  obtain ⟨_, _, _, _, _, h1, h4, rfl⟩ := h.cases
  exact .of_icw h1 h4

theorem setPriority (l : BitVec 3) : PicRespects fun p => { p with prio := l } := by
  intro p q h
  obtain ⟨_, _, _, _, _, h1, h4, rfl⟩ := h.cases
  exact .of_icw h1 h4

theorem setRotAeoi (b : Bool) : PicRespects fun p => { p with rotAeoi := b } := by
  intro p q h
  obtain ⟨_, _, _, _, _, h1, h4, rfl⟩ := h.cases
  exact .of_icw h1 h4

theorem comp {f g : Pic → Pic} (hg : PicRespects g) (hf : PicRespects f) : PicRespects (g ∘ f) := fun _ _ h => hg _ _ (hf _ _ h)

theorem rotateSpecificEoi (l : BitVec 3) : PicRespects fun p => { p with isr := clearLevel p.isr l, prio := l } :=
  (setPriority l).comp (specificEoi l)

theorem ident : PicRespects fun p => p := fun _ _ h => h

theorem ocw3 (b : Byte) : PicRespects fun p =>
    { p with rsel := ocw3Target b, poll := b.getLsbD 2, smm := if b.getLsbD 6 then b.getLsbD 5 else p.smm } := by
  intro p q h
  obtain ⟨_, _, _, _, _, h1, h4, rfl⟩ := h.cases
  exact .of_icw h1 h4

theorem nonSpecificEoi : PicRespects Pic.nonSpecificEoi := by
  intro p q h
  cases hf : firstIn p.prio p.isr with
  | none =>
    have hisr : p.isr = 0 := (firstIn_none _ _).1 hf
    rw [Pic.nonSpecificEoi_none hisr, Pic.nonSpecificEoi_none (h.isr_eq.trans hisr)]
    exact h
  | some l =>
    have hq : firstIn q.prio q.isr = some l := by rw [h.prio_eq, h.isr_eq, hf]
    rw [Pic.nonSpecificEoi_some hf, Pic.nonSpecificEoi_some hq]
    exact specificEoi l p q h

theorem rotateNonSpecificEoi : PicRespects Pic.rotateNonSpecificEoi := by
  intro p q h
  cases hf : firstIn p.prio p.isr with
  | none =>
    have hisr : p.isr = 0 := (firstIn_none _ _).1 hf
    rw [Pic.rotateNonSpecificEoi_none hisr, Pic.rotateNonSpecificEoi_none (h.isr_eq.trans hisr)]
    exact h
  | some l =>
    have hq : firstIn q.prio q.isr = some l := by rw [h.prio_eq, h.isr_eq, hf]
    rw [Pic.rotateNonSpecificEoi_some hf, Pic.rotateNonSpecificEoi_some hq]
    exact rotateSpecificEoi l p q h

theorem admitLevel (l : BitVec 3) : PicRespects (·.admitLevel l) := by
  intro p q h
  obtain ⟨_, _, _, _, _, h1, h4, rfl⟩ := h.cases
  unfold Pic.admitLevel
  dsimp only
  split <;> exact .of_icw h1 h4

end PicRespects

/-- What R211 hands over, and the unit afterwards: of ICW4 it reads the AEOI bit alone. -/
theorem Pic.Alike.take {p q : Pic} (h : p.Alike q) :
    (p.take = none ∧ q.take = none) ∨ ∃ v p' q', p.take = some (v, p') ∧ q.take = some (v, q') ∧ p'.Alike q' := by
  cases hf : firstIn p.prio p.pending with
  | none =>
    have hq : firstIn q.prio q.pending = none := by rw [h.prio_eq, h.pending_eq, hf]
    exact .inl ⟨by rw [Pic.take, hf], by rw [Pic.take, hq]⟩
  | some l =>
    have hq : firstIn q.prio q.pending = some l := by rw [h.prio_eq, h.pending_eq, hf]
    right
    simp only [Pic.take, hf, hq]
    obtain ⟨_, _, _, _, _, h1, h4, rfl⟩ := h.cases
    refine ⟨_, _, _, rfl, rfl, ?_⟩
    dsimp only
    rw [← getLsbD_of_and_eq (i := 1) h4 rfl]
    split_ifs <;> exact .of_icw h1 h4

/-! ## Alike states -/

/-- `s'` is `s` with alike units. -/
def State.Alike (s s' : State) : Prop :=
  ∃ p0 p1 : Pic, s.pic0.Alike p0 ∧ s.pic1.Alike p1 ∧ s' = { s with pic0 := p0, pic1 := p1 }

namespace State.Alike

variable {s s' : State}

theorem pic (h : s.Alike s') (u : PicUnit) : (s.pic u).Alike (s'.pic u) := by
  obtain ⟨p0, p1, h0, h1, rfl⟩ := h
  cases u with
  | primary => exact h0
  | secondary => exact h1

theorem pit_eq (h : s.Alike s') (c : PitChan) : s'.pit c = s.pit c := by obtain ⟨_, _, -, -, rfl⟩ := h; cases c <;> rfl

theorem dma_eq (h : s.Alike s') (k : DmaUnit) : s'.dma k = s.dma k := by obtain ⟨_, _, -, -, rfl⟩ := h; cases k <;> rfl

theorem kbc_eq (h : s.Alike s') : s'.kbc = s.kbc := by obtain ⟨_, _, -, -, rfl⟩ := h; rfl

theorem ata_eq (h : s.Alike s') : s'.ata = s.ata := by obtain ⟨_, _, -, -, rfl⟩ := h; rfl

theorem events_eq (h : s.Alike s') : s'.events = s.events := by obtain ⟨_, _, -, -, rfl⟩ := h; rfl

theorem params_eq (h : s.Alike s') : s'.params = s.params := by obtain ⟨_, _, -, -, rfl⟩ := h; rfl

theorem setPic (h : s.Alike s') (u : PicUnit) {p q : Pic} (hpq : p.Alike q) : (s.setPic u p).Alike (s'.setPic u q) := by
  obtain ⟨p0, p1, h0, h1, rfl⟩ := h
  cases u with
  | primary => exact ⟨q, p1, hpq, h1, rfl⟩
  | secondary => exact ⟨p0, q, h0, hpq, rfl⟩

theorem setPit (h : s.Alike s') (c : PitChan) (t : Pit) : (s.setPit c t).Alike (s'.setPit c t) := by
  obtain ⟨p0, p1, h0, h1, rfl⟩ := h
  cases c <;> exact ⟨p0, p1, h0, h1, rfl⟩

theorem setDma (h : s.Alike s') (k : DmaUnit) (d : Dma) : (s.setDma k d).Alike (s'.setDma k d) := by
  obtain ⟨p0, p1, h0, h1, rfl⟩ := h
  cases k <;> exact ⟨p0, p1, h0, h1, rfl⟩

theorem setKbc (h : s.Alike s') (k : Kbc) : State.Alike { s with kbc := k } { s' with kbc := k } := by
  obtain ⟨p0, p1, h0, h1, rfl⟩ := h
  exact ⟨p0, p1, h0, h1, rfl⟩

theorem setAta (h : s.Alike s') (a : Ata) : State.Alike { s with ata := a } { s' with ata := a } := by
  obtain ⟨p0, p1, h0, h1, rfl⟩ := h
  exact ⟨p0, p1, h0, h1, rfl⟩

theorem setEvents (h : s.Alike s') (es : List Event) : State.Alike { s with events := es } { s' with events := es } := by
  obtain ⟨p0, p1, h0, h1, rfl⟩ := h
  exact ⟨p0, p1, h0, h1, rfl⟩

theorem setHostAnswer (h : s.Alike s') (b : Option Bool) : State.Alike { s with hostAnswer := b } { s' with hostAnswer := b } := by
  obtain ⟨p0, p1, h0, h1, rfl⟩ := h
  exact ⟨p0, p1, h0, h1, rfl⟩

theorem reply (h : s.Alike s') (bs : List Byte) : (s.reply bs).Alike (s'.reply bs) := by
  obtain ⟨p0, p1, h0, h1, rfl⟩ := h
  exact ⟨p0, p1, h0, h1, rfl⟩

theorem raiseFatal (h : s.Alike s') (x : FatalReason) : (raiseFatal x s).Alike (raiseFatal x s') := by
  obtain ⟨p0, p1, h0, h1, rfl⟩ := h
  exact ⟨p0, p1, h0, h1, rfl⟩

theorem deliver (h : s.Alike s') (i : Input) (rest : List Input) : (deliver s i rest).Alike (deliver s' i rest) := by
  obtain ⟨p0, p1, h0, h1, rfl⟩ := h
  cases i <;> exact ⟨p0, p1, h0, h1, rfl⟩

/-! ## The interrupts and the clocks -/

theorem admitIrq (h : s.Alike s') (n : BitVec 4) : (admitIrq n s).Alike (admitIrq n s') := by
  unfold Machine.admitIrq
  split
  · exact h.setPic .secondary (PicRespects.admitLevel _ _ _ (h.pic .secondary))
  · exact h.setPic .primary (PicRespects.admitLevel _ _ _ (h.pic .primary))

theorem raiseWhen (h : s.Alike s') (b : Bool) (n : BitVec 4) : (raiseWhen b n s).Alike (raiseWhen b n s') := by
  cases b with
  | false => exact h
  | true => rw [raiseWhen_true, raiseWhen_true]; exact h.admitIrq n

theorem enqueued (h : s.Alike s') (b : Byte) : (enqueued b s).Alike (enqueued b s') := by
  unfold Machine.enqueued
  rw [h.kbc_eq]
  exact (h.setKbc _).raiseWhen _ 1

theorem pitTick (h : s.Alike s') : (pitTick s).Alike (pitTick s') := by
  obtain ⟨p0, p1, h0, h1, rfl⟩ := h
  refine raiseWhen ?_ _ 0
  exact ⟨p0, p1, h0, h1, rfl⟩

theorem deliverFrom (h : s.Alike s') (u : PicUnit) : (deliverFrom u s).Alike (deliverFrom u s') := by
  obtain ⟨hp, hq⟩ | ⟨v, p, q, hp, hq, hpq⟩ := (h.pic u).take
  · rw [deliverFrom_none hp, deliverFrom_none hq]
    exact h
  · rw [deliverFrom_some hp, deliverFrom_some hq, h.events_eq]
    exact (h.setPic u hpq).setEvents _

theorem picTick (h : s.Alike s') (ie : Bool) :
    (if ie then Machine.deliverFrom .secondary (Machine.deliverFrom .primary s) else s).Alike
      (if ie then Machine.deliverFrom .secondary (Machine.deliverFrom .primary s') else s') := by
  cases ie with
  | false => exact h
  | true => exact (h.deliverFrom .primary).deliverFrom .secondary

theorem latchCount (h : s.Alike s') (c : PitChan) :
    (s.setPit c (s.pit c).latchCount).Alike (s'.setPit c (s'.pit c).latchCount) := by
  rw [h.pit_eq]
  exact h.setPit c _

theorem latchStatus (h : s.Alike s') (c : PitChan) : (latchStatus c s).Alike (latchStatus c s') := by
  unfold Machine.latchStatus
  rw [h.pit_eq]
  split
  · exact h
  · obtain ⟨p0, p1, h0, h1, rfl⟩ := h
    cases c <;> exact ⟨p0, p1, h0, h1, rfl⟩

theorem readbackChan (h : s.Alike s') (countN statusN : Bool) (c : PitChan) :
    (readbackChan countN statusN c s).Alike (readbackChan countN statusN c s') := by
  cases countN <;> cases statusN
  · exact (h.latchCount c).latchStatus c
  · exact h.latchCount c
  · exact h.latchStatus c
  · exact h

/-- One channel of R244, when its select bit `sel` is set. -/
theorem readbackSelected (h : s.Alike s') (countN statusN sel : Bool) (c : PitChan) :
    (if sel then Machine.readbackChan countN statusN c s else s).Alike
      (if sel then Machine.readbackChan countN statusN c s' else s') := by
  cases sel with
  | false => exact h
  | true => exact h.readbackChan countN statusN c

theorem readbackAll (h : s.Alike s') (countN statusN : Bool) (sel : BitVec 3) :
    (readbackAll countN statusN sel s).Alike (readbackAll countN statusN sel s') :=
  ((h.readbackSelected countN statusN (sel.getLsbD 0) .c0).readbackSelected countN statusN (sel.getLsbD 1) .c1).readbackSelected
    countN statusN (sel.getLsbD 2) .c2

end State.Alike

/-! ## Alike bodies of a step -/

/-- Two bodies of a step end in alike states, or are abandoned for one reason. -/
inductive ResultsAlike : Result → Result → Prop
  | ok {t t' : State} (h : t.Alike t') : ResultsAlike (.ok t) (.ok t')
  | error (x : FatalReason) : ResultsAlike (.error x) (.error x)

namespace ResultsAlike

variable {s s' : State}

/-- Two bodies that test the same condition. -/
theorem ite {c c' : Prop} [Decidable c] [Decidable c'] {r r' q q' : Result} (hc : c ↔ c') (hr : ResultsAlike r r')
    (hq : ResultsAlike q q') : ResultsAlike (if c then r else q) (if c' then r' else q') := by
  by_cases h : c
  · rwa [if_pos h, if_pos (hc.1 h)]
  · rwa [if_neg h, if_neg (mt hc.2 h)]

theorem bind {r r' : Result} {f f' : State → Result} (hr : ResultsAlike r r')
    (hf : ∀ t t', t.Alike t' → ResultsAlike (f t) (f' t')) : ResultsAlike (r >>= f) (r' >>= f') := by
  cases hr with
  | ok h => exact hf _ _ h
  | error x => exact .error x

theorem picCommand (h : s.Alike s') (u : PicUnit) {f : Pic → Pic} (hf : PicRespects f) :
    ResultsAlike (picCommand u f s) (picCommand u f s') :=
  ite (by rw [(h.pic u).init_eq]) (.ok (h.setPic u (hf _ _ (h.pic u)))) (.error _)

theorem pitWrite (h : s.Alike s') (c : PitChan) (f : Pit → Pit) : ResultsAlike (pitWrite c f s) (pitWrite c f s') := by
  unfold Machine.pitWrite
  rw [h.pit_eq]
  exact ite Iff.rfl (.error _) (.ok (h.setPit c _))

theorem pitRead (h : s.Alike s') (c : PitChan) {f : State → State} (hf : (f s).Alike (f s')) :
    ResultsAlike (pitRead c f s) (pitRead c f s') :=
  ite (by rw [h.pit_eq]) (.error _) (.ok hf)

theorem setKbc (h : s.Alike s') (f : Kbc → Kbc) : ResultsAlike (setKbc f s) (setKbc f s') := by
  unfold Machine.setKbc
  rw [h.kbc_eq]
  exact .ok (h.setKbc _)

theorem enqueue (h : s.Alike s') (b : Byte) : ResultsAlike (enqueue b s) (enqueue b s') :=
  ite (by rw [h.kbc_eq, h.params_eq]) (.error _) (.ok (h.enqueued b))

/-- 43_kbc.md R288, R299, R300: a response, then a change of the controller's registers. -/
theorem respond (h : s.Alike s') (b : Byte) (f : Kbc → Kbc) :
    ResultsAlike (Machine.enqueue b s >>= Machine.setKbc f) (Machine.enqueue b s' >>= Machine.setKbc f) :=
  bind (enqueue h b) fun _ _ ht => setKbc ht f

theorem kbcCommand (h : s.Alike s') {r r' : Result} (hr : ResultsAlike r r') : ResultsAlike (kbcCommand s r) (kbcCommand s' r') :=
  ite (by rw [h.kbc_eq]) hr (.error _)

theorem pciAccess (h : s.Alike s') (size : Size) (lane : BitVec 2) {t t' : State} (ht : t.Alike t') :
    ResultsAlike (pciAccess size lane t s) (pciAccess size lane t' s') := by
  obtain ⟨_, _, -, -, rfl⟩ := h
  exact ite Iff.rfl (.error _) (.ok ht)

theorem ataCommand (h : s.Alike s') (f : Ata → Ata) : ResultsAlike (ataCommand s f) (ataCommand s' f) := by
  unfold Machine.ataCommand
  rw [h.ata_eq]
  exact ite Iff.rfl (.error _) (.ok (h.setAta _))

theorem cdbRead10 (h : s.Alike s') (lba : BitVec 32) (cnt : BitVec 16) :
    ResultsAlike (cdbRead10 lba cnt s) (cdbRead10 lba cnt s') := by
  obtain ⟨_, _, -, -, rfl⟩ := id h
  unfold Machine.cdbRead10
  exact ite Iff.rfl (.ok (h.setAta _)) (ite Iff.rfl (.error _) (ite Iff.rfl (.ok (h.setAta _)) (.ok (h.setAta _))))

theorem cdbExecute (h : s.Alike s') : ResultsAlike (cdbExecute s) (cdbExecute s') := by
  unfold Machine.cdbExecute
  rw [h.ata_eq]
  dsimp only
  split
  · exact cdbRead10 (h.setAta _) _ _
  · exact .ok (h.setAta _)
  · exact .error _

theorem ataDataWrite (h : s.Alike s') (n : Nat) : ResultsAlike (ataDataWrite n s) (ataDataWrite n s') := by
  have hpayload : s'.payload n = s.payload n := by obtain ⟨_, _, -, -, rfl⟩ := h; rfl
  unfold Machine.ataDataWrite
  rw [h.ata_eq, hpayload]
  exact ite Iff.rfl (.error _) (ite Iff.rfl (.error _) (ite Iff.rfl (cdbExecute (h.setAta _)) (.ok (h.setAta _))))

theorem ataDataRead (h : s.Alike s') (n : Nat) : ResultsAlike (ataDataRead n s) (ataDataRead n s') := by
  unfold Machine.ataDataRead
  rw [h.ata_eq]
  exact ite Iff.rfl (.error _) (.ok ((h.setAta _).reply _))

theorem ataDevctl (h : s.Alike s') (b : Byte) : ResultsAlike (ataDevctl b s) (ataDevctl b s') := by
  unfold Machine.ataDevctl
  rw [h.ata_eq]
  exact ite Iff.rfl (ite Iff.rfl (.error _) (.ok (h.setAta _))) (.ok (h.setAta _))

end ResultsAlike

/-! ## Alike steps -/

/-- Two steps end in alike next states. -/
def OutcomesAlike (o o' : Host.Outcome State Fault Refusal) : Prop := ∃ t t', o = .next t ∧ o' = .next t' ∧ t.Alike t'

namespace OutcomesAlike

variable {s s' : State}

theorem next {t t' : State} (h : t.Alike t') : OutcomesAlike (.next t) (.next t') := ⟨t, t', rfl, rfl, h⟩

theorem commit (h : s.Alike s') {r r' : Result} (hr : ResultsAlike r r') : OutcomesAlike (commit s r) (commit s' r') := by
  cases hr with
  | ok ht => exact next ht
  | error x => exact next (h.raiseFatal x)

theorem kbcDataRead (h : s.Alike s') : OutcomesAlike (execKbcDataRead s) (execKbcDataRead s') := by
  unfold execKbcDataRead
  rw [h.kbc_eq]
  split
  · exact next (h.reply _)
  · exact next ((h.setKbc _).reply _)

theorem kbdReset (h : s.Alike s') : OutcomesAlike (execKbdReset s) (execKbdReset s') := by
  unfold execKbdReset
  rw [h.params_eq]
  exact commit h (.bind (.enqueue h _) fun _ _ ht => .bind (.setKbc ht _) fun _ _ hu => .enqueue hu _)

theorem ataIdentifyDone (h : s.Alike s') : OutcomesAlike (execAtaIdentifyDone s) (execAtaIdentifyDone s') := by
  obtain ⟨_, _, -, -, rfl⟩ := id h
  unfold execAtaIdentifyDone
  dsimp only
  split
  · exact next (h.setAta _)
  · exact next h

/-- Every instruction, by the operation its meaning comes to. -/
theorem exec (h : s.Alike s') (i : Instr) : OutcomesAlike (exec i s) (exec i s') := by
  cases i with
  | picIcw1 u b => exact commit h (.picCommand h u (.icw1 b))
  | picIcw2 u b => exact next (h.setPic u (PicRespects.icw2 b _ _ (h.pic u)))
  | picIcw3 u b => exact next (h.setPic u (PicRespects.icw3 b _ _ (h.pic u)))
  | picIcw4 u b => exact next (h.setPic u (PicRespects.icw4 b _ _ (h.pic u)))
  | picOcw1 u b => exact next (h.setPic u (PicRespects.ocw1 b _ _ (h.pic u)))
  | picNseoi u => exact commit h (.picCommand h u .nonSpecificEoi)
  | picSeoi u l => exact commit h (.picCommand h u (.specificEoi l))
  | picRotNseoi u => exact commit h (.picCommand h u .rotateNonSpecificEoi)
  | picRotSeoi u l => exact commit h (.picCommand h u (.rotateSpecificEoi l))
  | picSetpri u l => exact commit h (.picCommand h u (.setPriority l))
  | picRotAeoiSet u | picRotAeoiClr u => exact commit h (.picCommand h u (.setRotAeoi _))
  | picOcw2Nop u => exact commit h (.picCommand h u .ident)
  | picOcw3 u b => exact commit h (.picCommand h u (.ocw3 b))
  | picDataRead u =>
    show OutcomesAlike (execPicDataRead u s) (execPicDataRead u s')
    unfold execPicDataRead
    rw [(h.pic u).selected_eq]
    exact next (h.reply _)
  | pitCw c | pitLatch c | pitDataRead c =>
    obtain ⟨p0, p1, h0, h1, rfl⟩ := h
    cases c <;> exact next ⟨p0, p1, h0, h1, rfl⟩
  | pitReadback countN statusN sel => exact next (h.readbackAll countN statusN sel)
  | pitWLsb | pitWMsb | pitWLow | pitWHigh => exact commit h (.pitWrite h _ _)
  | pitRLatched c | pitRLive c =>
    refine commit h (.pitRead h c ?_)
    obtain ⟨p0, p1, h0, h1, rfl⟩ := h
    cases c <;> exact ⟨p0, p1, h0, h1, rfl⟩
  | dmaMode k | dmaSingleMask k | dmaMasterReset k =>
    obtain ⟨p0, p1, h0, h1, rfl⟩ := h
    cases k <;> exact next ⟨p0, p1, h0, h1, rfl⟩
  | kbcDataRead => exact kbcDataRead h
  | kbcReadConfig | kbcReadOutport | kbcTestPort1 =>
    obtain ⟨_, _, -, -, rfl⟩ := id h
    exact commit h (.kbcCommand h (.enqueue h _))
  | kbcWriteConfig | kbcDisablePort2 | kbcEnablePort2 | kbcDisablePort1 | kbcEnablePort1 | kbcWriteOutport =>
    exact commit h (.kbcCommand h (.setKbc h _))
  | kbcSelfTest => exact commit h (.kbcCommand h (.respond h _ _))
  | kbdScansetArg | kbdSetScanset => exact commit h (.respond h _ _)
  | kbdEnableScan | kbdDisableScan => exact commit h (.enqueue h _)
  | kbdReset => exact kbdReset h
  | ataNop | ataIdentifyPacket | ataIdentify | ataPacket => exact commit h (.ataCommand h _)
  | ataDataWrite => exact commit h (.ataDataWrite h _)
  | ataDataRead => exact commit h (.ataDataRead h _)
  | ataDevctl b => exact commit h (.ataDevctl h b)
  | cdbRead10 lba cnt => exact commit h (.cdbRead10 h lba cnt)
  | pciDataRead | pciDataWrite =>
    refine commit h (.pciAccess h _ _ ?_)
    obtain ⟨p0, p1, h0, h1, rfl⟩ := h
    exact ⟨p0, p1, h0, h1, rfl⟩
  | kbcStatusRead | ataLatchRead | ataErrorRead | ataStatusRead | ataAltstatusRead | pciAddrRead | cmosDataRead |
    ataLatchWrite | cdbTestUnitReady | pciAddrWrite | cmosIndex | cmosDataWrite | kbcConfigPayload | kbcOutportPayload =>
    obtain ⟨p0, p1, h0, h1, rfl⟩ := h
    exact next ⟨p0, p1, h0, h1, rfl⟩
  | picTick ie => exact next (h.picTick ie)
  | pitTick => exact next h.pitTick
  | ataIdentifyDone => exact ataIdentifyDone h
  | hostTake u => exact next (h.deliverFrom u)
  | hostPending u =>
    rw [exec_hostPending, exec_hostPending, (h.pic u).pending_eq]
    exact next (h.setHostAnswer _)

end OutcomesAlike

/-- 30_encoding.md R131: of the two units the decoder reads the cursors alone. -/
theorem State.Alike.seq_eq {s s' : State} (h : s.Alike s') : s'.seq = s.seq := by
  obtain ⟨p0, p1, h0, h1, rfl⟩ := h
  simp only [State.seq, h0.init_eq, h1.init_eq]

theorem State.Alike.fetchInstr_eq {s s' : State} (h : s.Alike s') (i : Input) : fetchInstr s' i = fetchInstr s i := by
  have hcode : inputCode s' i = inputCode s i := by
    obtain ⟨_, _, -, -, rfl⟩ := h
    cases i <;> rfl
  rw [fetchInstr, fetchInstr, h.seq_eq, hcode]

theorem State.Alike.step {s s' t : State} (h : s.Alike s') (hs : step s = .next t) : ∃ t', step s' = .next t' ∧ t.Alike t' := by
  have hfatal : s'.fatal = s.fatal := by obtain ⟨_, _, -, -, rfl⟩ := h; rfl
  have hinputs : s'.inputs = s.inputs := by obtain ⟨_, _, -, -, rfl⟩ := h; rfl
  obtain ⟨hf, ⟨hi, rfl⟩ | ⟨i, rest, hi, hrun⟩⟩ := step_cases hs
  · exact ⟨s', step_idle (hfatal.trans hf) (hinputs.trans hi), h⟩
  · have hd := h.deliver i rest
    unfold Machine.step
    rw [hfatal, hf, hinputs, hi]
    dsimp only
    rw [hd.fetchInstr_eq]
    obtain ⟨x, hx, he⟩ | ⟨x, hx, rfl⟩ := hrun
    · obtain ⟨u, u', hu, hu', huu⟩ := OutcomesAlike.exec hd x
      rw [hx]
      cases he.symm.trans hu
      exact ⟨u', hu', huu⟩
    · rw [hx]
      exact ⟨_, rfl, hd.raiseFatal x⟩

/-- Settles O18: one step of alike states, through `OutcomesAlike.exec`. -/
theorem unreadPicFields : Obligations.UnreadPicFields := by
  intro s t p0 p1 h0 h1 hs
  obtain ⟨_, hs', q0, q1, hq0, hq1, rfl⟩ := State.Alike.step ⟨p0, p1, h0, h1, rfl⟩ hs
  exact ⟨q0, q1, hq0, hq1, hs'⟩

end Sys2Proof.Machine
end

section
/-! SUPPORT. The timer's family (42_pit.md): its command port, the data port's writes and reads, read-back and the clock. -/

namespace Sys2Proof.Machine

/-! ## A programmed channel and an unprogrammed one (R245, R251) -/

theorem commit_pitWrite_ok {c : PitChan} {s : State} (h : (s.pit c).access ≠ 0) (f : Pit → Pit) :
    commit s (pitWrite c f s) = .next (s.setPit c (f (s.pit c))) :=
  congrArg (commit s) (if_neg h)

theorem commit_pitWrite_error {c : PitChan} {s : State} (h : (s.pit c).access = 0) (f : Pit → Pit) :
    commit s (pitWrite c f s) = .next (raiseFatal .unmappedAccess s) :=
  congrArg (commit s) (if_pos h)

theorem commit_pitRead_ok {c : PitChan} {s : State} (h : (s.pit c).access ≠ 0) (f : State → State) :
    commit s (pitRead c f s) = .next (f s) :=
  congrArg (commit s) (if_neg h)

theorem commit_pitRead_error {c : PitChan} {s : State} (h : (s.pit c).access = 0) (f : State → State) :
    commit s (pitRead c f s) = .next (raiseFatal .unmappedAccess s) :=
  congrArg (commit s) (if_pos h)

/-! ## Control word and counter latch (R242, R243) -/

theorem Pit.latchCount_free {q : Pit} (h : q.clPend = false) : q.latchCount = { q with clVal := q.count, clPend := true } := by
  rw [Pit.latchCount, h]; rfl

theorem Pit.latchCount_pending {q : Pit} (h : q.clPend = true) : q.latchCount = q := by
  rw [Pit.latchCount, h]; rfl

theorem exec_pitLatch (c : PitChan) (s : State) : exec (.pitLatch c) s = .next (s.setPit c (s.pit c).latchCount) := rfl

/-- Settles O34: the control word by definition, the latch by its pending flag. -/
theorem pitControlAndLatch : Obligations.PitControlAndLatch := by
  intro c rw m bcd s q
  refine ⟨rfl, fun hfree => ?_, fun hpending => ?_⟩
  · rw [exec_pitLatch, Pit.latchCount_free hfree]
  · rw [exec_pitLatch, Pit.latchCount_pending hpending, State.setPit_self]

/-! ## Read-back (R244) -/

/-- With both flags high nothing is latched. -/
theorem Pit.latched_none (out : Bool) (q : Pit) : q.latched true true out = q := by
  simp [Pit.latched]

/-- R244 on one channel and its select bit: an unselected channel is one that is asked for nothing. -/
theorem readbackSelected_spec (countN statusN sel : Bool) (c : PitChan) (s : State) :
    ∃ out n, (if sel then readbackChan countN statusN c s else s) =
      { s.setPit c ((s.pit c).latched (countN || !sel) (statusN || !sel) out) with draws := n } := by
  cases sel with
  | false =>
    refine ⟨false, s.draws, ?_⟩
    rw [Bool.not_false, Bool.or_true, Bool.or_true, Pit.latched_none, State.setPit_self]
    rfl
  | true =>
    rw [Bool.not_true, Bool.or_false, Bool.or_false]
    exact readbackChan_spec countN statusN c s

/-- R244 on the three channels: each latches for itself, whatever the others do. -/
theorem readbackAll_spec (countN statusN : Bool) (sel : BitVec 3) (s : State) : ∃ out0 out1 out2 n,
    readbackAll countN statusN sel s = { s with
      pit0 := s.pit0.latched (countN || !sel.getLsbD 0) (statusN || !sel.getLsbD 0) out0
      pit1 := s.pit1.latched (countN || !sel.getLsbD 1) (statusN || !sel.getLsbD 1) out1
      pit2 := s.pit2.latched (countN || !sel.getLsbD 2) (statusN || !sel.getLsbD 2) out2
      draws := n } := by
  unfold readbackAll
  dsimp only
  obtain ⟨out0, _, h0⟩ := readbackSelected_spec countN statusN (sel.getLsbD 0) .c0 s
  rw [h0]
  obtain ⟨out1, _, h1⟩ := readbackSelected_spec countN statusN (sel.getLsbD 1) .c1 _
  rw [h1]
  obtain ⟨out2, n, h2⟩ := readbackSelected_spec countN statusN (sel.getLsbD 2) .c2 _
  exact ⟨out0, out1, out2, n, h2⟩

/-- `Pit.latched` in the words of R244: the count, and the status byte of R140 as a number, where no latch is pending. -/
theorem Pit.latched_eq (countN statusN chosen out : Bool) (q : Pit) :
    q.latched (countN || !chosen) (statusN || !chosen) out = { q with
      clVal := if chosen = true ∧ countN = false ∧ q.clPend = false then q.count else q.clVal
      clPend := q.clPend || (chosen && !countN)
      slVal :=
        if chosen = true ∧ statusN = false ∧ q.slPend = false then
          BitVec.ofNat 8 (out.toNat * 128 + q.nullCount.toNat * 64 + q.access.toNat * 16 + q.mode.toNat * 2 + q.bcd.toNat)
        else q.slVal
      slPend := q.slPend || (chosen && !statusN) } := by
  rw [← status_eq]
  cases chosen with
  | false => simp [Pit.latched]
  | true => simp [Pit.latched]

/-- Settles O35: the channels latch one by one (`readbackAll_spec`), each as `Pit.latched_eq` says. -/
theorem pitReadback : Obligations.PitReadback := by
  intro countN statusN sel s
  obtain ⟨out0, out1, out2, n, h⟩ := readbackAll_spec countN statusN sel s
  refine ⟨_, congrArg Host.Outcome.next h, rfl, fun c => ?_⟩
  cases c with
  | c0 => exact ⟨out0, Pit.latched_eq _ _ _ _ _⟩
  | c1 => exact ⟨out1, Pit.latched_eq _ _ _ _ _⟩
  | c2 => exact ⟨out2, Pit.latched_eq _ _ _ _ _⟩

/-! ## Data-port writes (R246 to R249) -/

theorem highLow_zero_high (b : Byte) : highLow 0x00 b = BitVec.ofNat 16 b.toNat := by
  rw [highLow_eq]; simp

theorem highLow_zero_low (b : Byte) : highLow b 0x00 = BitVec.ofNat 16 (b.toNat * 256) := by
  rw [highLow_eq]; simp

theorem highLow_keep_high (v : Half) (b : Byte) :
    highLow (v.extractLsb' 8 8) b = BitVec.ofNat 16 (v.toNat / 256 * 256 + b.toNat) := by
  have hv : v.toNat / 256 < 256 := by omega
  rw [highLow_eq, highByte_eq, BitVec.toNat_ofNat, Nat.mod_eq_of_lt hv]

theorem highLow_keep_low (v : Half) (b : Byte) :
    highLow b (v.extractLsb' 0 8) = BitVec.ofNat 16 (b.toNat * 256 + v.toNat % 256) := by
  rw [highLow_eq, lowByte_eq, BitVec.toNat_ofNat]

/-- Settles O36: each write is a change of its programmed channel, the divisor by its two bytes. -/
theorem pitDataWrites : Obligations.PitDataWrites := by
  intro c b s q hprog
  refine ⟨?_, ?_, ?_, ?_⟩
  · rw [← highLow_zero_high]; exact commit_pitWrite_ok hprog _
  · rw [← highLow_zero_low]; exact commit_pitWrite_ok hprog _
  · rw [← highLow_keep_high]; exact commit_pitWrite_ok hprog _
  · rw [← highLow_keep_low]; exact commit_pitWrite_ok hprog _

/-! ## Data-port reads (R250 to R254) -/

/-- R254 in one equation: the byte read, whether the access is complete, and the cursor afterwards. -/
theorem Pit.selByte_eq (q : Pit) (v : Half) : q.selByte v =
    (if q.access = 2 ∨ (q.access = 3 ∧ q.lowNext = false) then BitVec.ofNat 8 (v.toNat / 256) else BitVec.ofNat 8 v.toNat,
      !(decide (q.access = 3) && q.lowNext), if q.access = 3 then !q.lowNext else q.lowNext) := by
  rw [Pit.selByte, highByte_eq, lowByte_eq]
  by_cases h2 : q.access = 2#2
  · simp [h2]
  · by_cases h3 : q.access = 3#2
    · cases hl : q.lowNext <;> simp [h3]
    · simp [h2, h3]

/-- A step that changes one channel and answers bytes. -/
theorem completes_setPit_reply {s : State} (h : s.mem.wf = true) (c : PitChan) (q : Pit) (bs : List Byte) :
    Completes (.next ((s.setPit c q).reply bs)) (s.setPit c q) bs :=
  ⟨_, rfl, answers_reply (by rwa [State.setPit_mem]) bs⟩

theorem exec_pitRLatched {c : PitChan} {s : State} (h : (s.pit c).access ≠ 0) : exec (.pitRLatched c) s =
    .next ((s.setPit c { s.pit c with
      lowNext := ((s.pit c).selByte (s.pit c).clVal).2.2
      clPend := if ((s.pit c).selByte (s.pit c).clVal).2.1 then false else (s.pit c).clPend }).reply
        [((s.pit c).selByte (s.pit c).clVal).1]) := commit_pitRead_ok h _

theorem exec_pitRLive {c : PitChan} {s : State} (h : (s.pit c).access ≠ 0) : exec (.pitRLive c) s =
    .next ((s.setPit c { s.pit c with lowNext := ((s.pit c).selByte (s.pit c).live).2.2 }).reply
      [((s.pit c).selByte (s.pit c).live).1]) := commit_pitRead_ok h _

/-- R252: the latch is freed exactly when the access is complete. -/
theorem freed_eq_held (pending held : Bool) : (if !held then false else pending) = (pending && held) := by
  cases held <;> simp

/-- Settles O37: the byte, the end of the access and the cursor by `Pit.selByte_eq`. -/
theorem pitDataReads : Obligations.PitDataReads := by
  intro c s hmem q byteOf next
  refine ⟨completes_setPit_reply hmem c _ _, fun hprog => ⟨?_, ?_⟩⟩
  · rw [exec_pitRLatched hprog, Pit.selByte_eq, freed_eq_held]
    exact completes_setPit_reply hmem c _ _
  · rw [exec_pitRLive hprog, Pit.selByte_eq]
    exact completes_setPit_reply hmem c _ _

/-! ## Which instruction a transaction on the timer's ports is (R241, R245, R250, R251) -/

theorem fetch_pitCommand {off : BitVec 64} {b : Byte} {s : State} {rest : List Input} (h : Awaits s (outByte 0x43 off b) rest) :
    fetchInstr (deliver s (outByte 0x43 off b) rest) (outByte 0x43 off b) = .ok (decodePitCommand b) := by
  obtain ⟨imm, rfl, hf⟩ := fetch_out (hd := .pit) h rfl fun _ => rfl
  exact hf

theorem fetch_pitData {c : PitChan} {off : BitVec 64} {b : Byte} {s : State} {rest : List Input}
    (h : Awaits s (outByte c.port off b) rest) :
    fetchInstr (deliver s (outByte c.port off b) rest) (outByte c.port off b) = .ok (decodePitWrite (s.pit c).seq c b) := by
  have hhandler : handlerAt portMap c.port = some .pit := by cases c <;> rfl
  have haccepted (imm : Word) : accepted ⟨.out, .b1, c.port, 1, imm⟩ = true := by cases c <;> rfl
  obtain ⟨imm, rfl, hf⟩ := fetch_out h hhandler haccepted
  rw [hf]
  cases c <;> rfl

theorem fetch_pitDataRead {c : PitChan} {off : BitVec 64} {host : List Byte} {s : State} {rest : List Input}
    (h : Awaits s (inByte c.port off host) rest) :
    fetchInstr (deliver s (inByte c.port off host) rest) (inByte c.port off host) = .ok (decodePitRead (s.pit c).seq c) := by
  have hhandler : handlerAt portMap c.port = some .pit := by cases c <;> rfl
  have haccepted (imm : Word) : accepted ⟨.inp, .b1, c.port, 1, imm⟩ = true := by cases c <;> rfl
  obtain ⟨imm, hf⟩ := fetch_in h hhandler haccepted
  rw [hf]
  cases c <;> rfl

@[simp] theorem deliver_pit (s : State) (i : Input) (rest : List Input) (c : PitChan) : (deliver s i rest).pit c = s.pit c := by
  cases c <;> simp [State.pit]

section Cursors

variable {q : PitSeq} {c : PitChan} {b : Byte}

/-- Access 0b00 has no row of its own (log 12). -/
theorem decodePitWrite_lsb (h : q.access = 0 ∨ q.access = 1) : decodePitWrite q c b = .pitWLsb c b := by
  have h2 : q.access ≠ 2 := by obtain h | h := h <;> rw [h] <;> decide
  have h3 : q.access ≠ 3 := by obtain h | h := h <;> rw [h] <;> decide
  exact (if_neg h2).trans (if_neg h3)

theorem decodePitWrite_msb (h : q.access = 2) : decodePitWrite q c b = .pitWMsb c b := if_pos h

theorem decodePitWrite_both (h : q.access = 3) :
    decodePitWrite q c b = if q.lowNext = true then .pitWLow c b else .pitWHigh c b := by
  have h2 : q.access ≠ 2 := by rw [h]; decide
  exact (if_neg h2).trans (if_pos h)

theorem decodePitRead_status (h : q.slPend = true) : decodePitRead q c = .pitDataRead c := if_pos h

theorem decodePitRead_value (h : q.slPend = false) :
    decodePitRead q c = if q.clPend = true then .pitRLatched c else .pitRLive c := if_neg (Bool.eq_false_iff.1 h)

end Cursors

/-- R245: a write to an unprogrammed channel raises F04. -/
theorem exec_pitWLsb_unprogrammed {c : PitChan} {s : State} (h : (s.pit c).access = 0) (b : Byte) :
    exec (.pitWLsb c b) s = .next (raiseFatal .unmappedAccess s) := commit_pitWrite_error h _

/-- R251: a read of an unprogrammed channel raises F04, latched or live. -/
theorem exec_pitRead_unprogrammed {c : PitChan} {s : State} (h : (s.pit c).access = 0) (latched : Bool) :
    exec (if latched = true then .pitRLatched c else .pitRLive c) s = .next (raiseFatal .unmappedAccess s) := by
  cases latched with
  | false => exact commit_pitRead_error h _
  | true => exact commit_pitRead_error h _

/-- Settles O38: the decoder reads the channel's cursors; the F04 of an unprogrammed channel is its instruction's. -/
theorem pitDataPort : Obligations.PitDataPort := by
  intro c b off host s rest port q w r
  have hport : port = c.port := by cases c <;> rfl
  have hw : w = outByte c.port off b := congrArg (outByte · off b) hport
  have hr : r = inByte c.port off host := congrArg (inByte · off host) hport
  rw [hw, hr]
  refine ⟨fun h => ?_, fun h => ?_⟩
  · rw [step_ok h (fetch_pitData h)]
    refine ⟨fun haccess => ?_, fun haccess => ?_, fun haccess => ?_, fun haccess => ?_⟩
    · rw [decodePitWrite_lsb (.inl haccess)]
      exact exec_pitWLsb_unprogrammed (by rwa [deliver_pit]) b
    · rw [decodePitWrite_lsb (.inr haccess)]
    · rw [decodePitWrite_msb haccess]
    · rw [decodePitWrite_both haccess]; rfl
  · rw [step_ok h (fetch_pitDataRead h)]
    refine ⟨fun hsl => ?_, fun hsl haccess => ?_, fun hsl _ => ?_⟩
    · rw [decodePitRead_status hsl]
    · rw [decodePitRead_value hsl]
      exact exec_pitRead_unprogrammed (by rwa [deliver_pit]) _
    · rw [decodePitRead_value hsl]; rfl

/-- Bits 7:6 of a command byte, as a number. -/
theorem pitCommand_channelBits (b : Byte) : (b.extractLsb' 6 2).toNat = b.toNat / 64 := by
  have := b.isLt
  rw [BitVec.extractLsb'_toNat, Nat.shiftRight_eq_div_pow]
  omega

/-- Bits 5:4. -/
theorem pitCommand_accessBits (b : Byte) : b.extractLsb' 4 2 = BitVec.ofNat 2 (b.toNat / 16) := by
  apply BitVec.eq_of_toNat_eq
  simp [Nat.shiftRight_eq_div_pow]

/-- Bits 3:1. -/
theorem pitCommand_modeBits (b : Byte) : b.extractLsb' 1 3 = BitVec.ofNat 3 (b.toNat / 2) := by
  apply BitVec.eq_of_toNat_eq
  simp [Nat.shiftRight_eq_div_pow]

/-- R241: which of the three classes a command byte falls in, by its numbers. -/
theorem decodePitCommand_eq (b : Byte) : decodePitCommand b =
    if b.toNat / 64 = 3 then .pitReadback (b.getLsbD 5) (b.getLsbD 4) (BitVec.ofNat 3 (b.toNat / 2))
    else
      let channel : PitChan := if b.toNat / 64 = 0 then .c0 else if b.toNat / 64 = 1 then .c1 else .c2
      if b.toNat / 16 % 4 = 0 then .pitLatch channel
      else .pitCw channel (BitVec.ofNat 2 (b.toNat / 16)) (BitVec.ofNat 3 (b.toNat / 2)) (b.getLsbD 0) := by
  unfold decodePitCommand
  rw [pitCommand_modeBits, pitCommand_accessBits]
  simp only [← BitVec.toNat_inj, pitCommand_channelBits, BitVec.toNat_ofNat]

/-- Settles O60: the three classes of `decodePitCommand_eq`. -/
theorem pitCommandPort : Obligations.PitCommandPort := by
  intro b off s rest i channel h
  rw [step_ok h (fetch_pitCommand h), decodePitCommand_eq]
  refine ⟨fun hreadback => ?_, fun hchannel hlatch => ?_, fun hchannel hcontrol => ?_⟩
  · rw [if_pos hreadback]
  · rw [if_neg hchannel]; dsimp only; rw [if_pos hlatch]
  · rw [if_neg hchannel]; dsimp only; rw [if_neg hcontrol]

/-! ## The clock (R262) -/

theorem Pit.counting_iff (modes : BitVec 8) (q : Pit) :
    q.counting modes = true ↔ q.nullCount = false ∧ modes.getLsbD q.mode.toNat = true := by
  rw [Pit.counting, Bool.and_eq_true, Bool.not_eq_true']

theorem Pit.tick_idle {modes : BitVec 8} {q : Pit} (h : ¬ q.counting modes = true) : q.tick modes = (q, false) := if_neg h

theorem Pit.tick_terminal {modes : BitVec 8} {q : Pit} (h : q.counting modes = true) (h1 : q.count = 1) :
    q.tick modes = ({ q with count := q.reload }, true) := by
  rw [Pit.tick, if_pos h, h1]; rfl

theorem Pit.tick_down {modes : BitVec 8} {q : Pit} (h : q.counting modes = true) (h1 : q.count ≠ 1) :
    q.tick modes = ({ q with count := q.count - 1 }, false) := by
  rw [Pit.tick, if_pos h, if_neg (fun h0 => h1 (by bv_omega))]

theorem Pit.tick_quiet {modes : BitVec 8} {q : Pit} (h : ¬ q.counting modes = true ∨ q.count ≠ 1) : (q.tick modes).2 = false := by
  by_cases hc : q.counting modes = true
  · rw [Pit.tick_down hc (h.resolve_left (not_not_intro hc))]
  · rw [Pit.tick_idle hc]

theorem count_sub_one (v : Half) : v - 1 = BitVec.ofNat 16 ((v.toNat + 65535) % 65536) := by
  bv_omega

theorem exec_pitTick (s : State) : exec .pitTick s = .next (pitTick s) := rfl

theorem pitTick_pit (s : State) (c : PitChan) : (pitTick s).pit c = ((s.pit c).tick s.params.pitTickModes).1 := by
  cases c <;> rfl

/-- But for the three channels, a tick is IRQ0 raised when channel 0 reached 0. -/
theorem pitTick_frame (s : State) : { pitTick s with pit0 := s.pit0, pit1 := s.pit1, pit2 := s.pit2 } =
    raiseWhen (s.pit0.tick s.params.pitTickModes).2 0 s := rfl

/-- Settles O39: each channel by the three outcomes of `Pit.tick`, the rest by `pitTick_frame`. The obligation's own name, `pitTick`, is
the model's function. -/
theorem pitTick_holds : Obligations.PitTick := by
  intro s counts
  have hcounts (q : Pit) : counts q ↔ q.counting s.params.pitTickModes = true := (Pit.counting_iff _ q).symm
  refine ⟨_, exec_pitTick s, fun c => ?_, fun hquiet => ?_, fun hcount hone => ?_⟩
  · simp only [pitTick_pit, hcounts]
    refine ⟨fun hidle => ?_, fun hcount hone => ?_, fun hcount hmore => ?_⟩
    · rw [Pit.tick_idle hidle]
    · rw [Pit.tick_terminal hcount hone]
    · rw [Pit.tick_down hcount hmore, count_sub_one]
  · rw [pitTick_frame, Pit.tick_quiet (by rwa [← hcounts]), raiseWhen_false]
  · rw [pitTick_frame, Pit.tick_terminal ((hcounts _).1 hcount) hone, raiseWhen_true]
    exact (picRaise_ok (Nat.zero_le _) s).symm

end Sys2Proof.Machine
end

section
/-! SUPPORT. The keyboard controller's family (43_kbc.md): reads, registers, responses, the two ports and the FIFO's order. -/

namespace Sys2Proof.Machine

/-! ## Reads and register commands (R282 to R298) -/

/-- The mask leaves bit 0 free, so adding the occupancy is setting it. -/
theorem mask_or_occupancy (v : Byte) :
    ((v &&& 0xFE) ||| 0x00 = (v &&& 0xFE) + 0) ∧ ((v &&& 0xFE) ||| 0x01 = (v &&& 0xFE) + 1) := by
  revert v; decide

theorem Kbc.statusByte_eq (k : Kbc) : k.statusByte = (k.status &&& 0xFE) + (if k.fifo = [] then 0 else 1) := by
  unfold Kbc.statusByte
  obtain ⟨hempty, hpending⟩ := mask_or_occupancy k.status
  split
  · exact hempty
  · exact hpending

theorem exec_kbcStatusRead (s : State) : exec .kbcStatusRead s = .next (s.reply [s.kbc.statusByte]) := rfl

theorem exec_kbcDataRead_empty {s : State} (h : s.kbc.fifo = []) : exec .kbcDataRead s = .next (s.reply [0xFF]) := by
  show execKbcDataRead s = _
  rw [execKbcDataRead, h]

theorem exec_kbcDataRead_cons {s : State} {b : Byte} {bs : List Byte} (h : s.kbc.fifo = b :: bs) :
    exec .kbcDataRead s = .next (State.reply { s with kbc := { s.kbc with fifo := bs } } [b]) := by
  show execKbcDataRead s = _
  rw [execKbcDataRead, h]

theorem completes_reply {s : State} (h : s.mem.wf = true) (bs : List Byte) : Completes (.next (s.reply bs)) s bs :=
  ⟨_, rfl, answers_reply h bs⟩

/-- Settles O40: each read is one reply, from the state with the oldest byte taken when there is one. -/
theorem kbcReads : Obligations.KbcReads := by
  intro s hmem
  refine ⟨?_, fun hempty => ?_, fun b bs hcons => ?_⟩
  · rw [exec_kbcStatusRead, Kbc.statusByte_eq]
    exact completes_reply hmem _
  · rw [exec_kbcDataRead_empty hempty]
    exact completes_reply hmem _
  · rw [exec_kbcDataRead_cons hcons]
    refine completes_reply ?_ _
    exact hmem

/-- R295: with no payload expected a controller command is its body. -/
theorem commit_kbcCommand_ok {s : State} (h : s.kbc.expect = .none) {r : Result} {o : Host.Outcome State Fault Refusal}
    (hr : commit s r = o) : commit s (kbcCommand s r) = o :=
  (congrArg (commit s) (if_pos h)).trans hr

/-- R295: while a payload is expected it is F08, whatever its body. -/
theorem commit_kbcCommand_error {s : State} (h : s.kbc.expect ≠ .none) (r : Result) :
    commit s (kbcCommand s r) = .next (raiseFatal .initSequenceViolation s) :=
  congrArg (commit s) (if_neg h)

theorem commit_setKbc (f : Kbc → Kbc) (s : State) : commit s (setKbc f s) = .next { s with kbc := f s.kbc } := rfl

/-- Settles O41: a command is a change of the registers under R295's check, a payload the change alone. -/
theorem kbcRegisterWrites : Obligations.KbcRegisterWrites := by
  intro b s k
  have command (h : s.kbc.expect = .none) (f : Kbc → Kbc) :
      commit s (kbcCommand s (setKbc f s)) = .next { s with kbc := f s.kbc } :=
    commit_kbcCommand_ok h (commit_setKbc f s)
  exact ⟨fun h => ⟨command h _, command h _, command h _, command h _, command h _, command h _⟩, rfl, rfl⟩

/-! ## Responses (R281) -/

section Enqueue

variable {s : State}

/-- What follows a response that finds room starts from the state with the byte queued. -/
theorem enqueue_bind_room (h : s.kbc.fifo.length ≠ s.params.kbcFifoCap) (b : Byte) (f : State → Result) :
    enqueue b s >>= f = f (afterEnqueue b s) := by
  rw [enqueue_ok h, enqueued_eq]; rfl

/-- Nothing follows a response that finds the FIFO full. -/
theorem enqueue_bind_full (h : s.kbc.fifo.length = s.params.kbcFifoCap) (b : Byte) (f : State → Result) :
    enqueue b s >>= f = .error .capacityExceeded := by
  rw [enqueue_error h]; rfl

theorem commit_enqueue_room (h : s.kbc.fifo.length ≠ s.params.kbcFifoCap) (b : Byte) :
    commit s (enqueue b s) = .next (afterEnqueue b s) := by
  rw [enqueue_ok h, enqueued_eq, commit_ok]

theorem commit_enqueue_full (h : s.kbc.fifo.length = s.params.kbcFifoCap) (b : Byte) :
    commit s (enqueue b s) = .next (raiseFatal .capacityExceeded s) := by
  rw [enqueue_error h, commit_error]

/-- R288, R299, R300: a response, then a change of the registers. -/
theorem commit_respond_room (h : s.kbc.fifo.length ≠ s.params.kbcFifoCap) (b : Byte) (f : Kbc → Kbc) :
    commit s (enqueue b s >>= setKbc f) = .next { afterEnqueue b s with kbc := f (afterEnqueue b s).kbc } := by
  rw [enqueue_bind_room h]; rfl

theorem commit_respond_full (h : s.kbc.fifo.length = s.params.kbcFifoCap) (b : Byte) (f : State → Result) :
    commit s (enqueue b s >>= f) = .next (raiseFatal .capacityExceeded s) := by
  rw [enqueue_bind_full h, commit_error]

end Enqueue

/-- R303 once the acknowledgement is queued: the status is set and the completion byte is to be queued. -/
def kbdResetAcked (s : State) : State :=
  { afterEnqueue 0xFA s with kbc := { (afterEnqueue 0xFA s).kbc with status := s.params.kbcStatusInit } }

@[simp] theorem kbdResetAcked_fifo_length (s : State) : (kbdResetAcked s).kbc.fifo.length = s.kbc.fifo.length + 1 :=
  List.length_append

@[simp] theorem kbdResetAcked_params (s : State) : (kbdResetAcked s).params = s.params := rfl

/-- R303: the reset's second response is queued in `kbdResetAcked`, but a fatal of it abandons the whole step. -/
theorem exec_kbdReset_acked {s : State} (h : s.kbc.fifo.length ≠ s.params.kbcFifoCap) :
    exec .kbdReset s = commit s (enqueue 0xAA (kbdResetAcked s)) :=
  congrArg (commit s) (enqueue_bind_room h _ _)

/-- Settles O42: every response is `afterEnqueue`; the reset's second one still finds room after the first. -/
theorem kbcResponses : Obligations.KbcResponses := by
  intro b s hlt
  have hroom : s.kbc.fifo.length ≠ s.params.kbcFifoCap := hlt.ne
  have answered (b : Byte) : commit s (enqueue b s) = .next (afterEnqueue b s) := commit_enqueue_room hroom b
  refine ⟨fun h => ⟨commit_kbcCommand_ok h (answered _), commit_kbcCommand_ok h (answered _),
      commit_kbcCommand_ok h (answered _), commit_kbcCommand_ok h (commit_respond_room hroom _ _)⟩,
    answered _, answered _, commit_respond_room hroom _ _, commit_respond_room hroom _ _, fun htwo => ?_⟩
  have hsecond : (kbdResetAcked s).kbc.fifo.length ≠ (kbdResetAcked s).params.kbcFifoCap := by simpa using htwo.ne
  rw [exec_kbdReset_acked hroom, enqueue_ok hsecond, enqueued_eq, commit_ok]; rfl

/-- Settles O43: the first response is F09 when the FIFO is full; the reset's second one when one byte of room was left. -/
theorem kbcFifoFull : Obligations.KbcFifoFull := by
  intro b s
  refine ⟨fun hfull => ?_, fun hreset => ?_⟩
  · have dropped (b : Byte) : commit s (enqueue b s) = .next (raiseFatal .capacityExceeded s) := commit_enqueue_full hfull b
    exact ⟨fun h => ⟨commit_kbcCommand_ok h (dropped _), commit_kbcCommand_ok h (dropped _),
        commit_kbcCommand_ok h (dropped _), commit_kbcCommand_ok h (commit_respond_full hfull _ _)⟩,
      dropped _, dropped _, commit_respond_full hfull _ _, commit_respond_full hfull _ _⟩
  · obtain hfull | hone := hreset
    · exact commit_respond_full hfull _ _
    · have hsecond : (kbdResetAcked s).kbc.fifo.length = (kbdResetAcked s).params.kbcFifoCap := by simpa using hone
      rw [exec_kbdReset_acked (by omega), enqueue_error hsecond, commit_error]

/-! ## Which instruction a byte on the two ports is (R294 to R296, R304, R305) -/

theorem fetch_kbcCommand {off : BitVec 64} {b : Byte} {s : State} {rest : List Input} (h : Awaits s (outByte 0x64 off b) rest) :
    fetchInstr (deliver s (outByte 0x64 off b) rest) (outByte 0x64 off b) = decodeKbcCommand s.kbc.expect b := by
  obtain ⟨imm, rfl, hf⟩ := fetch_out (hd := .kbc) h rfl fun _ => rfl
  exact hf

theorem fetch_kbcData {off : BitVec 64} {b : Byte} {s : State} {rest : List Input} (h : Awaits s (outByte 0x60 off b) rest) :
    fetchInstr (deliver s (outByte 0x60 off b) rest) (outByte 0x60 off b) = decodeKbcData s.seq b := by
  obtain ⟨imm, rfl, hf⟩ := fetch_out (hd := .kbc) h rfl fun _ => rfl
  exact hf

/-- An instruction whose meaning is a body under R295's check. -/
def IsKbcCommand (i : Instr) : Prop := ∀ s, ∃ r, exec i s = commit s (kbcCommand s r)

/-- The answer of a chain of tests has `P` when the first arm's has, and the rest's. -/
theorem property_of_ite_ok {P : Instr → Prop} {c : Prop} [Decidable c] {i j : Instr} {r : Except FatalReason Instr} (hi : P i)
    (hr : r = .ok j → P j) (h : (if c then .ok i else r) = .ok j) : P j := by
  split at h
  · cases h; exact hi
  · exact hr h

/-- Every byte the command port decodes is a controller command. -/
theorem decodeKbcCommand_isKbcCommand {e : KbcExpect} {b : Byte} {i : Instr} (h : decodeKbcCommand e b = .ok i) :
    IsKbcCommand i := by
  unfold decodeKbcCommand at h
  repeat refine property_of_ite_ok (fun _ => ⟨_, rfl⟩) (fun h => ?_) h
  split at h <;> cases h

/-- Log 21: while a payload is expected a byte that is no command is F08 in the decoder. -/
theorem decodeKbcCommand_error_pending {e : KbcExpect} (he : e ≠ .none) {b : Byte} {x : FatalReason}
    (h : decodeKbcCommand e b = .error x) : x = .initSequenceViolation := by
  unfold decodeKbcCommand at h
  repeat replace h := error_of_ite_ok h
  rw [if_neg he] at h
  cases h; rfl

/-- R294: a byte that is none of the ten commands. -/
theorem decodeKbcCommand_unrecognized {b : Byte} (h : b ∉ [0x20, 0x60, 0xA7, 0xA8, 0xAA, 0xAB, 0xAD, 0xAE, 0xD0, 0xD1]) :
    decodeKbcCommand .none b = .error .unrecognizedCommand := by
  simp only [List.mem_cons, List.not_mem_nil, or_false, not_or] at h
  simp only [decodeKbcCommand, h, if_false, if_true]

/-- Settles O44: while a payload is expected both the decoder's answers come to F08; otherwise by the byte. -/
theorem kbcCommandPort : Obligations.KbcCommandPort := by
  intro b off s rest i run h
  have hfetch := fetch_kbcCommand h
  refine ⟨fun hpending => ?_, fun hnone => ?_⟩
  · cases hd : decodeKbcCommand s.kbc.expect b with
    | ok x =>
      obtain ⟨r, hr⟩ := decodeKbcCommand_isKbcCommand hd (deliver s i rest)
      rw [step_ok h (hfetch.trans hd), hr, commit_kbcCommand_error (by rwa [deliver_kbc])]
    | error x =>
      rw [step_error h (hfetch.trans hd), decodeKbcCommand_error_pending hpending hd]
  · rw [hnone] at hfetch
    have hrun {x : Instr} (hx : decodeKbcCommand .none b = .ok x) : run x := step_ok h (hfetch.trans hx)
    refine ⟨?_, ?_, ?_, ?_, ?_, ?_, ?_, ?_, ?_, ?_,
      fun hother => step_error h (hfetch.trans (decodeKbcCommand_unrecognized hother))⟩ <;>
    exact fun hb => hrun (hb ▸ rfl)

section DataPort

variable {c : SeqState} {b : Byte}

theorem decodeKbcData_config (h : c.kbcExpect = .config) : decodeKbcData c b = .ok (.kbcConfigPayload b) := by
  rw [decodeKbcData, h]

theorem decodeKbcData_outport (h : c.kbcExpect = .outport) : decodeKbcData c b = .ok (.kbcOutportPayload b) := by
  rw [decodeKbcData, h]

theorem decodeKbcData_unforwarded (h : c.kbcExpect = .none) (hf : c.kbcForward = false) :
    decodeKbcData c b = .error .dataWriteNotRequested := by
  rw [decodeKbcData, h, hf]; rfl

theorem decodeKbcData_argument (h : c.kbcExpect = .none) (hf : c.kbcForward = true) (ha : c.kbdExpect = .scansetArg) :
    decodeKbcData c b = .ok (.kbdScansetArg b) := by
  rw [decodeKbcData, h, hf, ha]; rfl

/-- R305: with nothing pending a forwarded byte is a keyboard command or F05. -/
theorem decodeKbcData_command (h : c.kbcExpect = .none) (hf : c.kbcForward = true) (ha : c.kbdExpect = .none) :
    decodeKbcData c b =
      if b = 0xF0 then .ok .kbdSetScanset else if b = 0xF4 then .ok .kbdEnableScan
      else if b = 0xF5 then .ok .kbdDisableScan else if b = 0xFF then .ok .kbdReset else .error .unrecognizedCommand := by
  rw [decodeKbcData, h, hf, ha]; rfl

end DataPort

/-- Settles O45: by the decoder's order, the payload, then the forwarding, then the argument, then the byte. -/
theorem kbcDataPort : Obligations.KbcDataPort := by
  intro b off s rest i run h
  have hrun {x : Instr} (hx : decodeKbcData s.seq b = .ok x) : run x := step_ok h ((fetch_kbcData h).trans hx)
  have hraise {x : FatalReason} (hx : decodeKbcData s.seq b = .error x) : step s = .next (raiseFatal x (deliver s i rest)) :=
    step_error h ((fetch_kbcData h).trans hx)
  refine ⟨fun he => hrun (decodeKbcData_config he), fun he => hrun (decodeKbcData_outport he), fun he =>
    ⟨fun hf => hraise (decodeKbcData_unforwarded he hf), fun hf =>
      ⟨fun ha => hrun (decodeKbcData_argument he hf ha), fun ha => ?_⟩⟩⟩
  have hd := decodeKbcData_command (c := s.seq) (b := b) he hf ha
  refine ⟨fun hb => hrun ?_, fun hb => hrun ?_, fun hb => hrun ?_, fun hb => hrun ?_, fun hother => hraise ?_⟩
  case refine_5 =>
    simp only [List.mem_cons, List.not_mem_nil, or_false, not_or] at hother
    simp only [hd, hother, if_false]
  all_goals rw [hd, hb]; rfl

/-! ## The order of the FIFO (R306) -/

/-- `t`'s FIFO is `s`'s with at most `n` responses appended. -/
def State.Queues (n : Nat) (s t : State) : Prop := ∃ bs : List Byte, bs.length ≤ n ∧ t.kbc.fifo = s.kbc.fifo ++ bs

namespace State.Queues

variable {m n : Nat} {s t u : State}

theorem of_fifo_eq (h : t.kbc.fifo = s.kbc.fifo) : s.Queues n t := ⟨[], Nat.zero_le n, by rw [h, List.append_nil]⟩

theorem of_kbc_eq (h : t.kbc = s.kbc) : s.Queues n t := of_fifo_eq (congrArg Kbc.fifo h)

/-- The form in which the shared operations' results are known. -/
theorem of_eq (h : t = u) (hu : u.kbc = s.kbc) : s.Queues n t := of_kbc_eq (h ▸ hu)

theorem mono (h : s.Queues m t) (hmn : m ≤ n) : s.Queues n t := by
  obtain ⟨bs, hlen, hbs⟩ := h
  exact ⟨bs, hlen.trans hmn, hbs⟩

theorem trans (h : s.Queues m t) (k : t.Queues n u) : s.Queues (m + n) u := by
  obtain ⟨bs, hlen, hbs⟩ := h
  obtain ⟨cs, hlen', hcs⟩ := k
  refine ⟨bs ++ cs, ?_, by rw [hcs, hbs, List.append_assoc]⟩
  rw [List.length_append]
  exact Nat.add_le_add hlen hlen'

theorem commit {r : Result} (h : commit s r = .next t) (hr : ∀ u, r = .ok u → s.Queues n u) : s.Queues n t := by
  cases r with
  | ok u => cases h; exact hr _ rfl
  | error x => cases h; exact of_kbc_eq (raiseFatal_kbc x s)

theorem bind {r : Result} {f : State → Result} (h : r >>= f = .ok t) (hr : ∀ u, r = .ok u → s.Queues m u)
    (hf : ∀ u, f u = .ok t → u.Queues n t) : s.Queues (m + n) t := by
  cases r with
  | ok u => exact (hr u rfl).trans (hf u h)
  | error x => cases h

theorem enqueue {b : Byte} (h : enqueue b s = .ok t) : s.Queues 1 t :=
  ⟨[b], Nat.le_refl 1, enqueue_cases h ▸ rfl⟩

/-- A change of the registers that leaves the FIFO. -/
theorem setKbc {f : Kbc → Kbc} (h : setKbc f s = .ok t) (hf : (f s.kbc).fifo = s.kbc.fifo) : s.Queues n t := by
  cases h
  exact of_fifo_eq hf

/-- R288, R299, R300. -/
theorem respond {b : Byte} {f : Kbc → Kbc} (h : Machine.enqueue b s >>= Machine.setKbc f = .ok t)
    (hf : ∀ k, (f k).fifo = k.fifo) : s.Queues 1 t :=
  bind (n := 0) h (fun _ => enqueue) fun u hu => setKbc hu (hf u.kbc)

theorem ata_only (h : t = { s with ata := t.ata }) : s.Queues n t := of_eq h rfl

theorem deliverFrom (u : PicUnit) (s : State) : s.Queues 0 (deliverFrom u s) := by
  unfold Machine.deliverFrom
  split
  · exact of_kbc_eq rfl
  · exact of_kbc_eq (State.setPic_kbc s u _)

theorem picTick (ie : Bool) (s : State) :
    s.Queues 0 (if ie then Machine.deliverFrom .secondary (Machine.deliverFrom .primary s) else s) := by
  cases ie with
  | false => exact of_kbc_eq rfl
  | true => exact (deliverFrom .primary s).trans (deliverFrom .secondary _)

theorem readbackAll (countN statusN : Bool) (sel : BitVec 3) (s : State) : s.Queues n (readbackAll countN statusN sel s) := by
  obtain ⟨_, _, _, _, h⟩ := readbackAll_pit_only countN statusN sel s
  exact of_eq h rfl

theorem ataDataRead {k : Nat} (h : ataDataRead k s = .ok t) : s.Queues n t := by
  obtain ⟨a, bs, rfl⟩ := ataDataRead_cases h
  exact of_kbc_eq rfl

theorem ataIdentifyDone (h : execAtaIdentifyDone s = .next t) : s.Queues n t := by
  unfold execAtaIdentifyDone at h
  split at h
  · cases h; exact of_kbc_eq rfl
  · cases h; exact of_kbc_eq rfl

/-- R303: two responses, and the status between them. -/
theorem kbdReset (h : exec .kbdReset s = .next t) : s.Queues 2 t :=
  commit h fun _ hu => bind hu (fun _ => enqueue) fun _ hv =>
    bind (m := 0) (n := 1) hv (fun _ hw => setKbc hw rfl) fun _ => enqueue

/-- Every instruction but the data read queues at most the two responses of the keyboard reset. -/
theorem exec {i : Instr} (hi : i ≠ .kbcDataRead) (h : exec i s = .next t) : s.Queues 2 t := by
  have one {t : State} (h : s.Queues 1 t) : s.Queues 2 t := h.mono (by decide)
  cases i with
  | kbcDataRead => exact absurd rfl hi
  | kbcReadConfig | kbcTestPort1 | kbcReadOutport => exact commit h fun _ hu => one (enqueue (kbcCommand_cases hu))
  | kbcSelfTest => exact commit h fun _ hu => one (respond (kbcCommand_cases hu) fun _ => rfl)
  | kbdScansetArg | kbdSetScanset => exact commit h fun _ hu => one (respond hu fun _ => rfl)
  | kbdEnableScan | kbdDisableScan => exact commit h fun _ hu => one (enqueue hu)
  | kbdReset => exact kbdReset h
  | kbcWriteConfig | kbcDisablePort2 | kbcEnablePort2 | kbcDisablePort1 | kbcEnablePort1 | kbcWriteOutport =>
    exact commit h fun _ hu => setKbc (kbcCommand_cases hu) rfl
  | kbcConfigPayload | kbcOutportPayload => cases h; exact of_fifo_eq rfl
  | picIcw1 | picNseoi | picSeoi | picRotNseoi | picRotSeoi | picSetpri | picRotAeoiSet | picRotAeoiClr | picOcw2Nop | picOcw3 =>
    exact commit h fun _ hu => of_eq (picCommand_cases hu) (State.setPic_kbc ..)
  | picIcw2 | picIcw3 | picIcw4 | picOcw1 => cases h; exact of_kbc_eq (State.setPic_kbc ..)
  | picDataRead | kbcStatusRead | ataLatchRead | ataErrorRead | ataStatusRead | ataAltstatusRead | pciAddrRead | cmosDataRead =>
    cases h; exact of_kbc_eq (State.reply_kbc s _)
  | pitCw | pitLatch | pitDataRead => cases h; exact of_kbc_eq (State.setPit_kbc s _ _)
  | pitReadback => cases h; exact readbackAll _ _ _ s
  | pitWLsb | pitWMsb | pitWLow | pitWHigh => exact commit h fun _ hu => of_eq (pitWrite_cases hu) (State.setPit_kbc ..)
  | pitRLatched | pitRLive => exact commit h fun _ hu => of_eq (pitRead_cases hu) (State.setPit_kbc s _ _)
  | ataNop | ataIdentifyPacket | ataIdentify | ataPacket => exact commit h fun _ hu => of_eq (ataCommand_cases hu) rfl
  | ataDataWrite => exact commit h fun _ hu => ata_only (ataDataWrite_ata_only hu)
  | ataDataRead => exact commit h fun _ => ataDataRead
  | ataDevctl => exact commit h fun _ hu => ata_only (ataDevctl_ata_only hu)
  | cdbRead10 => exact commit h fun _ hu => ata_only (cdbRead10_ata_only hu)
  | dmaMode | dmaSingleMask | dmaMasterReset => cases h; exact of_kbc_eq (State.setDma_kbc ..)
  | pciDataRead | pciDataWrite => exact commit h fun _ hu => of_eq (pciAccess_cases hu) rfl
  | ataLatchWrite | cdbTestUnitReady | pciAddrWrite | cmosIndex | cmosDataWrite | pitTick | hostPending =>
    cases h; exact of_kbc_eq rfl
  | picTick => cases h; exact (picTick _ s).mono (Nat.zero_le 2)
  | ataIdentifyDone => exact ataIdentifyDone h
  | hostTake => cases h; exact (deliverFrom _ s).mono (Nat.zero_le 2)

end State.Queues

/-- R283: the data read takes the oldest byte, or finds none. -/
theorem exec_kbcDataRead_fifo {s t : State} (h : exec .kbcDataRead s = .next t) :
    s.Queues 0 t ∨ ∃ b, s.kbc.fifo = b :: t.kbc.fifo := by
  cases hq : s.kbc.fifo with
  | nil => cases (exec_kbcDataRead_empty hq).symm.trans h; exact .inl (.of_kbc_eq rfl)
  | cons b bs => cases (exec_kbcDataRead_cons hq).symm.trans h; exact .inr ⟨b, rfl⟩

/-- R306 (iii) of one instruction. -/
theorem exec_fifo {i : Instr} {s t : State} (h : exec i s = .next t) : s.Queues 2 t ∨ ∃ b, s.kbc.fifo = b :: t.kbc.fifo := by
  by_cases hi : i = .kbcDataRead
  · subst hi
    exact (exec_kbcDataRead_fifo h).imp_left (·.mono (Nat.zero_le 2))
  · exact .inl (.exec hi h)

/-- Settles O14: neither the delivery nor a fatal touches the FIFO, and an instruction does what `exec_fifo` says. -/
theorem fifoInOrder : Obligations.FifoInOrder := by
  intro s t h
  obtain ⟨-, ⟨-, rfl⟩ | ⟨i, rest, -, ⟨x, -, hx⟩ | ⟨r, -, rfl⟩⟩⟩ := step_cases h
  · exact .inl ⟨[], by decide, (List.append_nil _).symm⟩
  · have := exec_fifo hx
    rwa [State.Queues, deliver_kbc] at this
  · exact .inl (State.Queues.of_kbc_eq (by rw [raiseFatal_kbc, deliver_kbc]))

end Sys2Proof.Machine
end

section
/-! SUPPORT. The ATA family (44_ata.md), the invariant: every step keeps it, start-up has it, so every reachable state has it. -/

namespace Sys2Proof

/-- The two CDB commands, which no input is decoded to: they run inside the data write that completes a CDB (R351). -/
def Instr.isCdb : Instr → Bool
  | .cdbRead10 _ _ => true
  | .cdbTestUnitReady => true
  | _ => false

theorem isCdb_of_portInstr {i : Instr} (h : portInstr i = true) : i.isCdb = false := by
  cases i with
  | cdbRead10 | cdbTestUnitReady => cases h
  | _ => rfl

theorem AgentStep.instr_isCdb (a : AgentStep) : a.instr.isCdb = false := by cases a <;> rfl

end Sys2Proof

namespace Sys2Proof.Machine

theorem fetchInstr_isCdb {s : State} {i : Input} {x : Instr} (h : fetchInstr s i = .ok x) : x.isCdb = false := by
  cases i with
  | trap d host => exact isCdb_of_portInstr (decodePort_portInstr h)
  | agent a => cases h; exact a.instr_isCdb

/-! ## The DMA mask (45_dma.md R382, R383) -/

theorem or_and_eq_zero {a b m : Byte} (ha : a &&& m = 0) (hb : b &&& m = 0) : (a ||| b) &&& m = 0 := by
  rw [BitVec.and_comm, BitVec.and_or_distrib_left, BitVec.and_comm m a, BitVec.and_comm m b, ha, hb]; rfl

theorem channelBit_high : ∀ i : BitVec 2, channelBit i &&& 0xF0 = 0 := by decide

/-- Bits 7:4 stay 0: a set writes a bit below 4, a clear keeps bits 3:0 alone. -/
theorem maskAfter_high {mask : Byte} (h : mask &&& 0xF0 = 0) (k : DmaUnit) (set : Bool) (i : BitVec 2) :
    maskAfter k set i mask &&& 0xF0 = 0 := by
  have hset := or_and_eq_zero h (channelBit_high i)
  unfold maskAfter
  split
  · split
    · exact or_and_eq_zero hset (by decide)
    · exact hset
  · rw [BitVec.and_assoc]; exact BitVec.and_zero

/-- 46_pci.md R402. -/
theorem pciAccess_inRange {size : Size} {lane : BitVec 2} {r s t : State} (h : pciAccess size lane r s = .ok t) :
    s.pci.curIndex < s.params.pciNumBlocks := by
  unfold pciAccess at h
  split at h
  · cases h
  · next hin => exact Nat.lt_of_not_le fun hge => hin (.inl hge)

namespace State.Inv

theorem setDma {s : State} (h : s.Inv) (k : DmaUnit) {d : Dma} (hd : d.Inv) : (s.setDma k d).Inv := by
  cases k
  · exact { h with dma0_inv := hd }
  · exact { h with dma1_inv := hd }

theorem dma {s : State} (h : s.Inv) (k : DmaUnit) : (s.dma k).Inv := by
  cases k
  · exact h.dma0_inv
  · exact h.dma1_inv

/-! ## The timer -/

theorem pitWrite {s t : State} (h : s.Inv) {c : PitChan} {f : Pit → Pit} (ht : pitWrite c f s = .ok t) : t.Inv :=
  pitWrite_cases ht ▸ h.setPit c _

theorem readbackAll {s : State} (h : s.Inv) (countN statusN : Bool) (sel : BitVec 3) : (readbackAll countN statusN sel s).Inv := by
  obtain ⟨p, q, r, n, hs⟩ := readbackAll_pit_only countN statusN sel s
  exact hs ▸ { h with }

theorem pitTick {s : State} (h : s.Inv) : (pitTick s).Inv :=
  State.Inv.raiseWhen (s := { s with
    pit0 := (s.pit0.tick s.params.pitTickModes).1
    pit1 := (s.pit1.tick s.params.pitTickModes).1
    pit2 := (s.pit2.tick s.params.pitTickModes).1 }) { h with } _ _

theorem picTick {s : State} (h : s.Inv) (ie : Bool) :
    (if ie then Machine.deliverFrom .secondary (Machine.deliverFrom .primary s) else s).Inv := by
  cases ie
  · exact h
  · exact (h.deliverFrom .primary).deliverFrom .secondary

/-! ## The keyboard controller -/

theorem kbcDataRead {s t : State} (h : s.Inv) (ht : exec .kbcDataRead s = .next t) : t.Inv := by
  cases hf : s.kbc.fifo with
  | nil => rw [exec_kbcDataRead_empty hf] at ht; cases ht; exact h.reply _
  | cons b rest =>
    rw [exec_kbcDataRead_cons hf] at ht
    cases ht
    have hle := h.fifo_le
    rw [hf, List.length_cons] at hle
    refine State.Inv.reply ?_ _
    exact { h with fifo_le := show rest.length ≤ s.params.kbcFifoCap by omega }

/-- 43_kbc.md R303: a response, a change of the registers, a response. -/
theorem kbdReset {s t : State} (h : s.Inv) (ht : exec .kbdReset s = .next t) : t.Inv := by
  refine h.commit (fun u hu => ?_) ht
  cases hack : Machine.enqueue 0xFA s with
  | error x => rw [hack] at hu; cases hu
  | ok v =>
    rw [hack] at hu
    have hv : State.Inv { v with kbc := { v.kbc with status := s.params.kbcStatusInit } } :=
      (h.enqueue hack).setKbc (f := fun k => { k with status := s.params.kbcStatusInit }) (fun _ => rfl) rfl
    exact hv.enqueue hu

/-! ## PCI and the IDENTIFY worker -/

/-- The block under the cursor, when there is one, is one of the blocks. -/
theorem curBlock_length {s : State} (h : s.Inv) (hc : s.pci.curIndex < s.params.pciNumBlocks) : s.pci.block.length = 256 := by
  have hlt : s.pci.curIndex < s.pci.blocks.length := h.blocks_length ▸ hc
  rw [Pci.block, List.getD_eq_getElem _ _ hlt]
  exact h.block_length _ (List.getElem_mem hlt)

/-- 46_pci.md R401 writes inside one block. -/
theorem pciDataWrite {s t : State} (h : s.Inv) {size : Size} {lane : BitVec 2} {v : Word}
    (ht : exec (.pciDataWrite size lane v) s = .next t) : t.Inv := by
  refine h.commit (fun u hu => ?_) ht
  have hlen := h.curBlock_length (pciAccess_inRange hu)
  rw [pciAccess_cases hu]
  refine { h with blocks_length := List.length_set.trans h.blocks_length, block_length := fun b hb => ?_ }
  obtain hb | rfl := List.mem_or_eq_of_mem_set hb
  · exact h.block_length b hb
  · rw [overwrite_length, hlen]

/-- R335: the 512 bytes fit, since the buffer's capacity is at least 512 (R6). -/
theorem ataIdentifyDone {s t : State} (h : s.Inv) (ht : execAtaIdentifyDone s = .next t) : t.Inv := by
  obtain ⟨-, -, -, hcap, -⟩ := h.params_wf
  unfold execAtaIdentifyDone at ht
  split at ht
  · cases ht
    exact h.setAta (h.ata_inv.fill (by omega) hcap)
  · cases ht; exact h

/-! ## Every instruction, then every step -/

/-- Every instruction an input is decoded to, by the operation its meaning comes to. (`by` puts the condition on the change of a
register off until `ht` has said which change it is.) -/
theorem exec {i : Instr} {s t : State} (h : s.Inv) (hi : i.isCdb = false) (ht : exec i s = .next t) : t.Inv := by
  cases i with
  | picIcw1 | picSetpri | picRotAeoiSet | picRotAeoiClr | picOcw2Nop | picOcw3 =>
    exact h.commit (fun _ => h.picCommand fun _ hp => by exact hp) ht
  | picSeoi | picRotSeoi => exact h.commit (fun _ => h.picCommand fun _ hp => by exact hp.clear_isr _) ht
  | picNseoi => exact h.commit (fun _ => h.picCommand fun _ => Pic.Inv.nonSpecificEoi) ht
  | picRotNseoi => exact h.commit (fun _ => h.picCommand fun _ => Pic.Inv.rotateNonSpecificEoi) ht
  | picIcw2 u | picIcw3 u | picIcw4 u | picOcw1 u => cases ht; exact h.setPic u (h.pic u)
  | picDataRead | kbcStatusRead | ataLatchRead | ataErrorRead | ataStatusRead | ataAltstatusRead | pciAddrRead | cmosDataRead =>
    cases ht; exact h.reply _
  | pitCw | pitLatch => cases ht; exact h.setPit _ _
  | pitReadback => cases ht; exact h.readbackAll _ _ _
  | pitWLsb | pitWMsb | pitWLow | pitWHigh => exact h.commit (fun _ => h.pitWrite) ht
  | pitDataRead => cases ht; exact (h.setPit _ _).reply _
  | pitRLatched | pitRLive => exact h.commit (fun _ hu => pitRead_cases hu ▸ (h.setPit _ _).reply _) ht
  | kbcDataRead => exact h.kbcDataRead ht
  | kbcReadConfig | kbcTestPort1 | kbcReadOutport => exact h.commit (fun _ => kbcCommand fun _ => h.enqueue) ht
  | kbcWriteConfig | kbcDisablePort2 | kbcEnablePort2 | kbcDisablePort1 | kbcEnablePort1 | kbcWriteOutport =>
    exact h.commit (fun _ => kbcCommand fun _ => h.setKbc fun _ => by rfl) ht
  | kbcSelfTest => exact h.commit (fun _ => kbcCommand fun _ => h.respond fun _ => by rfl) ht
  | kbdScansetArg | kbdSetScanset => exact h.commit (fun _ => h.respond fun _ => by rfl) ht
  | kbdEnableScan | kbdDisableScan => exact h.commit (fun _ => h.enqueue) ht
  | kbdReset => exact h.kbdReset ht
  | ataLatchWrite r b => cases ht; exact h.setAta (h.ata_inv.latch b r)
  | ataNop => exact h.commit (fun _ => h.ataCommand fun _ => h.ata_inv) ht
  | ataIdentifyPacket => exact h.commit (fun _ => h.ataCommand fun htag => h.ata_inv.startIdentify htag .atapi) ht
  | ataIdentify => exact h.commit (fun _ => h.ataCommand fun htag => h.ata_inv.startIdentify htag .disk) ht
  | ataPacket => exact h.commit (fun _ => h.ataCommand h.ata_inv.startPacket) ht
  | ataDataWrite => exact h.commit (fun _ => h.ataDataWrite) ht
  | ataDataRead => exact h.commit (fun _ => h.ataDataRead) ht
  | ataDevctl => exact h.commit (fun _ => h.ataDevctl) ht
  | cdbRead10 | cdbTestUnitReady => cases hi
  | dmaMode k => cases ht; exact h.setDma k (h.dma k)
  | dmaSingleMask k set c => cases ht; exact h.setDma k (maskAfter_high (h.dma k) k set c)
  | dmaMasterReset k => cases ht; exact h.setDma k (show (0x0F : Byte) &&& 0xF0 = 0 by decide)
  | pciDataRead => exact h.commit (fun _ hu => pciAccess_cases hu ▸ h.reply _) ht
  | pciDataWrite => exact h.pciDataWrite ht
  | kbcConfigPayload | kbcOutportPayload | pciAddrWrite | cmosIndex | hostPending => cases ht; exact { h with }
  | cmosDataWrite => cases ht; exact { h with regs_length := List.length_set.trans h.regs_length }
  | picTick ie => cases ht; exact h.picTick ie
  | pitTick => cases ht; exact h.pitTick
  | ataIdentifyDone => exact h.ataIdentifyDone ht
  | hostTake u => cases ht; exact h.deliverFrom u

theorem step {s t : State} (h : s.Inv) (hs : step s = .next t) : t.Inv := by
  obtain ⟨-, ⟨-, rfl⟩ | ⟨i, rest, -, ⟨x, hx, ht⟩ | ⟨r, -, rfl⟩⟩⟩ := step_cases hs
  · exact h
  · exact (h.deliver i rest).exec (fetchInstr_isCdb hx) ht
  · exact (h.deliver i rest).raise r

end State.Inv

/-- Settles O10: the delivery keeps the invariant, and so does the decoded instruction or the fatal record. -/
theorem invariantKept : Obligations.InvariantKept := fun _ _ => State.Inv.step

/-! ## Reachable states -/

theorem pciInitBlock_length {p : Params} (h : p.wf) (i : Nat) : (pciInitBlock p i).length = 256 := by
  obtain ⟨-, -, -, -, -, -, -, -, hhost, hdisplay, -⟩ := h
  unfold pciInitBlock
  split
  · simp only [List.length_cons, hhost]
  · split
    · exact hdisplay
    · exact List.length_replicate

theorem Pic.inv_reset (base : Byte) : (Pic.reset base).Inv := show (0 : Byte) &&& 0 = 0 by decide

theorem Dma.inv_reset : Dma.reset.Inv := show (0x0F : Byte) &&& 0xF0 = 0 by decide

/-- 10_state.md R55: no phase, no data, and status 0x40. -/
theorem Ata.inv_reset (p : Params) : (Ata.reset p).Inv p.ataBufCap where
  dbuf_length := List.length_replicate
  cdb_length := List.length_replicate
  dread_le := Nat.le_refl 0
  dsize_le := Nat.zero_le _
  not_bsy_drq := show ¬ ((0x40 : Byte).getLsbD 7 = true ∧ (0x40 : Byte).getLsbD 3 = true) by decide
  cdb_phase := fun h => by cases h
  identify_phase := fun _ h => by cases h
  data_phase := fun h => absurd h (show ¬ (0x40 : Byte).getLsbD 3 = true by decide)
  err_abrt := fun h => absurd h (show ¬ (0x40 : Byte).getLsbD 0 = true by decide)
  stuck_bits := show (0x40 : Byte) &&& 0x36 = 0 by decide

theorem State.inv_resetWith {p : Params} (h : p.wf) : (State.resetWith p).Inv where
  params_wf := h
  ports_fixed := rfl
  mem_wf := reset_mem_wf p
  pic0_inv := Pic.inv_reset _
  pic1_inv := Pic.inv_reset _
  fifo_le := Nat.zero_le _
  ata_inv := Ata.inv_reset p
  dma0_inv := Dma.inv_reset
  dma1_inv := Dma.inv_reset
  blocks_length := (List.length_map _).trans List.length_range
  block_length := fun b hb => by
    obtain ⟨i, -, rfl⟩ := List.mem_map.1 hb
    exact pciInitBlock_length h i
  regs_length := by
    obtain ⟨-, -, -, -, -, -, -, -, -, -, hcmos⟩ := h
    exact hcmos

theorem Reachable.inv {s : State} (h : Reachable s) : s.Inv := by
  induction h with
  | reset p hp is => exact { State.inv_resetWith hp with }
  | step s t _ hs ih => exact ih.step hs

/-- Settles O12: the conjuncts are fields of the invariant, which every reachable state has. -/
theorem reachableAta : Obligations.ReachableAta := by
  intro s hs
  have h := hs.inv
  have ha := h.ata_inv
  exact ⟨⟨ha.dread_le, ha.dsize_le⟩, ha.not_bsy_drq, ha.cdb_phase, ha.identify_phase, ha.data_phase, ha.err_abrt, h.fifo_le⟩

end Sys2Proof.Machine
end

section
/-! SUPPORT. The ATA family (44_ata.md), its instructions: registers, commands, the CDB phase, the data phase, device control. -/

namespace Sys2Proof.Machine

/-! ## Registers (R322 to R326) -/

theorem exec_ataLatchWrite (r : AtaLatch) (b : Byte) (s : State) :
    exec (.ataLatchWrite r b) s = .next { s with ata := s.ata.writeLatch b r } := rfl

theorem exec_ataLatchRead (r : AtaReadLatch) (s : State) : exec (.ataLatchRead r) s = .next (s.reply [s.ata.readLatch r]) := rfl

/-- Settles O46: a latch write is `writeLatch` at its latch, a read one reply. -/
theorem ataRegisters : Obligations.AtaRegisters := by
  intro b s a
  have write (r : AtaLatch) := exec_ataLatchWrite r b s
  refine ⟨write .features, write .seccount, write .lba0, write .lba1, write .lba2, write .drvhead, fun hmem => ?_⟩
  have read (r : AtaReadLatch) : Completes (exec (.ataLatchRead r) s) s [a.readLatch r] := completes_reply hmem _
  exact ⟨read .seccount, read .lba0, read .lba1, read .lba2, read .drvhead,
    completes_reply hmem _, completes_reply hmem _, completes_reply hmem _⟩

/-! ## Commands (R327 to R334) -/

theorem commit_ataCommand_ok {s : State} (hb : s.ata.status.getLsbD 7 = false) (ht : s.ata.tag = .none) (f : Ata → Ata) :
    commit s (ataCommand s f) = .next { s with ata := f s.ata } :=
  congrArg (commit s) (ataCommand_ok hb ht f)

theorem commit_ataCommand_busy {s : State} (h : s.ata.busy = true) (f : Ata → Ata) :
    commit s (ataCommand s f) = .next (raiseFatal .busy s) :=
  congrArg (commit s) (ataCommand_error h f)

theorem exec_ataNop (s : State) : exec .ataNop s = commit s (ataCommand s fun a => a) := rfl

theorem exec_ataIdentifyPacket (s : State) : exec .ataIdentifyPacket s = commit s (ataCommand s (·.startIdentify .atapi)) := rfl

theorem exec_ataIdentify (s : State) : exec .ataIdentify s = commit s (ataCommand s (·.startIdentify .disk)) := rfl

theorem exec_ataPacket (s : State) : exec .ataPacket s = commit s (ataCommand s Ata.startPacket) := rfl

/-- Settles O47: with no command in progress each is its change of the channel, which the drive bit makes a start or an abort. -/
theorem ataCommands : Obligations.AtaCommands := by
  intro s a aborted hbsy htag
  have run (f : Ata → Ata) := commit_ataCommand_ok hbsy htag f
  rw [exec_ataNop, exec_ataIdentifyPacket, exec_ataIdentify, exec_ataPacket, run, run, run, run,
    startIdentify_eq, startIdentify_eq, startPacket_eq]
  refine ⟨rfl, fun hdrive => ?_, fun hdrive => ?_⟩
  · rw [unit_atapi hdrive]; exact ⟨rfl, rfl, rfl⟩
  · rw [unit_disk hdrive]; exact ⟨rfl, rfl, rfl⟩

theorem fetch_ataCommand {off : BitVec 64} {b : Byte} {s : State} {rest : List Input} (h : Awaits s (outByte 0x1F7 off b) rest) :
    fetchInstr (deliver s (outByte 0x1F7 off b) rest) (outByte 0x1F7 off b) = decodeAtaCommand s.ata.busy b := by
  obtain ⟨imm, rfl, hf⟩ := fetch_out (hd := .ata) h rfl fun _ => rfl
  exact hf

/-- An instruction whose meaning is a change of the channel under R327's check. -/
def IsAtaCommand (i : Instr) : Prop := ∀ s, ∃ f, exec i s = commit s (ataCommand s f)

/-- Every byte that port 0x1F7 decodes is a command. -/
theorem decodeAtaCommand_isAtaCommand {busy : Bool} {b : Byte} {i : Instr} (h : decodeAtaCommand busy b = .ok i) :
    IsAtaCommand i := by
  unfold decodeAtaCommand at h
  repeat refine property_of_ite_ok (fun _ => ⟨_, rfl⟩) (fun h => ?_) h
  split at h <;> cases h

/-- Log 21: while a command is in progress a byte that is no command is F11 in the decoder. -/
theorem decodeAtaCommand_error_busy {b : Byte} {x : FatalReason} (h : decodeAtaCommand true b = .error x) : x = .busy := by
  unfold decodeAtaCommand at h
  repeat replace h := error_of_ite_ok h
  cases h; rfl

/-- R329: a byte that is none of the four commands. -/
theorem decodeAtaCommand_unrecognized {b : Byte} (h : b ∉ [0x00, 0xA1, 0xEC, 0xA0]) :
    decodeAtaCommand false b = .error .unrecognizedCommand := by
  simp only [List.mem_cons, List.not_mem_nil, or_false, not_or] at h
  simp only [decodeAtaCommand, h, if_false, Bool.false_eq_true]

theorem Ata.busy_iff (a : Ata) : a.busy = true ↔ a.status.getLsbD 7 = true ∨ a.tag ≠ .none := by
  rw [Ata.busy, Bool.or_eq_true, decide_eq_true_iff, Ata.bsy]

/-- Settles O48: while a command is in progress both the decoder's answers come to F11; otherwise by the byte. -/
theorem ataCommandPort : Obligations.AtaCommandPort := by
  intro b off s rest i run h
  have hfetch := fetch_ataCommand h
  refine ⟨fun hbusy => ?_, fun hbsy htag => ?_⟩
  · replace hbusy := (Ata.busy_iff _).2 hbusy
    rw [hbusy] at hfetch
    cases hd : decodeAtaCommand true b with
    | ok x =>
      obtain ⟨f, hf⟩ := decodeAtaCommand_isAtaCommand hd (deliver s i rest)
      rw [step_ok h (hfetch.trans hd), hf, commit_ataCommand_busy (by rwa [deliver_ata])]
    | error x => rw [step_error h (hfetch.trans hd), decodeAtaCommand_error_busy hd]
  · have hfree : s.ata.busy = false := by
      rw [Bool.eq_false_iff, Ne, Ata.busy_iff, hbsy, htag]
      simp
    rw [hfree] at hfetch
    have hrun {x : Instr} (hx : decodeAtaCommand false b = .ok x) : run x := step_ok h (hfetch.trans hx)
    refine ⟨?_, ?_, ?_, ?_, fun hother => step_error h (hfetch.trans (decodeAtaCommand_unrecognized hother))⟩ <;>
      exact fun hb => hrun (hb ▸ rfl)

/-! ## The CDB phase (R340, R341) -/

@[simp] theorem payload_length (s : State) (n : Nat) : (s.payload n).length = n := Memory.readBytes_length _ _ _

/-- Payload bytes placed in an array that holds them all. -/
theorem overwrite_payload_getD (s : State) {l : List Byte} {start n : Nat} (h : start + n ≤ l.length) (j : Nat) :
    (overwrite l start (s.payload n)).getD j 0 =
      if start ≤ j ∧ j < start + n then s.mem.read (s.cur.offset.toNat + (j - start)) else l.getD j 0 := by
  rw [overwrite_getD l start _ (by rwa [payload_length]), payload_length]
  split
  · exact readBytes_getD _ _ _ (by omega)
  · rfl

/-- R340, R341: the next `n` payload bytes at the end of the CDB, the channel otherwise as it was. -/
def cdbAppended (n : Nat) (s : State) : State :=
  { s with ata := { s.ata with cdb := overwrite s.ata.cdb s.ata.clen (s.payload n), clen := s.ata.clen + n } }

@[simp] theorem cdbAppended_cdb_length (n : Nat) (s : State) : (cdbAppended n s).ata.cdb.length = s.ata.cdb.length :=
  overwrite_length _ _ _

theorem cdbAppended_cdb_getD {n : Nat} {s : State} (h : s.ata.clen + n ≤ s.ata.cdb.length) (j : Nat) :
    (cdbAppended n s).ata.cdb.getD j 0 =
      if s.ata.clen ≤ j ∧ j < s.ata.clen + n then s.mem.read (s.cur.offset.toNat + (j - s.ata.clen)) else s.ata.cdb.getD j 0 :=
  overwrite_payload_getD s h j

section DataWrite

variable {w : DataWidth} {count : BitVec 32} {s : State}

theorem exec_ataDataWrite_outside (h : s.ata.status.getLsbD 3 = false ∨ s.ata.tag ≠ .cdbIncoming) :
    exec (.ataDataWrite w count) s = .next (raiseFatal .dataWriteNotRequested s) :=
  congrArg (commit s) (if_pos h)

variable (hdrq : s.ata.status.getLsbD 3 = true) (htag : s.ata.tag = .cdbIncoming)
include hdrq htag

theorem exec_ataDataWrite_past (h : 12 < s.ata.clen + dataBytes w count) :
    exec (.ataDataWrite w count) s = .next (raiseFatal .capacityExceeded s) :=
  congrArg (commit s) ((if_neg (cdb_phase hdrq htag)).trans (if_pos h))

theorem exec_ataDataWrite_short (h : s.ata.clen + dataBytes w count < 12) :
    exec (.ataDataWrite w count) s = .next (cdbAppended (dataBytes w count) s) :=
  congrArg (commit s) ((if_neg (cdb_phase hdrq htag)).trans ((if_neg (by omega)).trans (if_neg h.ne)))

theorem exec_ataDataWrite_twelfth (h : s.ata.clen + dataBytes w count = 12) :
    exec (.ataDataWrite w count) s = commit s (cdbExecute (cdbAppended (dataBytes w count) s)) :=
  congrArg (commit s) ((if_neg (cdb_phase hdrq htag)).trans ((if_neg (by omega)).trans (if_pos h)))

end DataWrite

/-- Settles O49: outside the phase, past twelve bytes, or short of them. -/
theorem ataCdbBytes : Obligations.AtaCdbBytes := by
  intro w count s n a
  refine ⟨exec_ataDataWrite_outside, fun hdrq htag => ⟨exec_ataDataWrite_past hdrq htag, fun hshort hlen => ?_⟩⟩
  exact ⟨_, (cdbAppended_cdb_length n s).trans hlen, fun j _ => cdbAppended_cdb_getD (hshort.le.trans_eq hlen.symm) j,
    exec_ataDataWrite_short hdrq htag hshort⟩

/-! ## CDB execution (R351 to R354) -/

section Execute

variable {s : State}

theorem cdbExecute_read10 (h : s.ata.cdb.getD 0 0 = 0x28) : cdbExecute s =
    cdbRead10 (be32 (s.ata.cdb.getD 2 0) (s.ata.cdb.getD 3 0) (s.ata.cdb.getD 4 0) (s.ata.cdb.getD 5 0))
      (be16 (s.ata.cdb.getD 7 0) (s.ata.cdb.getD 8 0)) { s with ata := s.ata.beginCdb } := by
  have hd : decodeCdb s.ata.beginCdb.cdb = _ := if_pos h
  simp only [cdbExecute, hd]; rfl

theorem cdbExecute_testUnitReady (h : s.ata.cdb.getD 0 0 = 0x00) :
    cdbExecute s = cdbTestUnitReady { s with ata := s.ata.beginCdb } := by
  have hd : decodeCdb s.ata.beginCdb.cdb = .ok .cdbTestUnitReady := (if_neg (by rw [Ata.beginCdb, h]; decide)).trans (if_pos h)
  simp only [cdbExecute, hd]

theorem cdbExecute_unrecognized (h28 : s.ata.cdb.getD 0 0 ≠ 0x28) (h00 : s.ata.cdb.getD 0 0 ≠ 0x00) :
    cdbExecute s = .error .unrecognizedCommand := by
  have hd : decodeCdb s.ata.beginCdb.cdb = .error .unrecognizedCommand := (if_neg h28).trans (if_neg h00)
  simp only [cdbExecute, hd]

end Execute

theorem be32_eq_ofNat (x2 x3 x4 x5 : Byte) : be32 x2 x3 x4 x5 =
    BitVec.ofNat 32 (x2.toNat * 2 ^ 24 + x3.toNat * 2 ^ 16 + x4.toNat * 2 ^ 8 + x5.toNat) := by
  rw [← be32n, BitVec.ofNat_toNat, BitVec.setWidth_eq]

theorem be16_eq_ofNat (x y : Byte) : be16 x y = BitVec.ofNat 16 (x.toNat * 2 ^ 8 + y.toNat) := by
  rw [← be16n, BitVec.ofNat_toNat, BitVec.setWidth_eq]

/-- R352 raises in one case alone: a range within the image and past the buffer. -/
theorem cdbRead10_completes {lba : BitVec 32} {cnt : BitVec 16} {s : State}
    (h : s.params.cdSize < lba.toNat * 2048 + cnt.toNat * 2048 ∨ cnt.toNat * 2048 ≤ s.params.ataBufCap) :
    ∃ t, cdbRead10 lba cnt s = .ok t := by
  by_cases hr : s.params.cdSize < lba.toNat * 2048 + cnt.toNat * 2048
  · exact ⟨_, read10_abort hr⟩
  · exact ⟨_, read10_data (Nat.le_of_not_lt hr) (h.resolve_left hr)⟩

/-- What a body that raises nothing comes to does not depend on the state a fatal record would be kept in. -/
theorem commit_eq_of_ok {s t u : State} {r : Result} (h : r = .ok u) : commit s r = commit t r := by rw [h]; rfl

/-- R351 on the appended channel: BSY set, DRQ clear, the CDB phase over. -/
theorem cdbAppended_beginCdb (n : Nat) (s : State) :
    { cdbAppended n s with ata := (cdbAppended n s).ata.beginCdb } = { s with ata := { s.ata with
      cdb := (cdbAppended n s).ata.cdb, clen := 0, tag := .none, status := (s.ata.status &&& 0xF7) ||| 0x80 } } := by
  simp only [Ata.beginCdb, cdb_status, cdbAppended]

/-- Settles O50: the twelfth byte's step is the execution of the CDB, by its opcode; READ(10) by whether it raises. -/
theorem ataCdbRuns : Obligations.AtaCdbRuns := by
  intro w count s n a hdrq htag h12 hlen
  refine ⟨(cdbAppended n s).ata.cdb, (cdbAppended_cdb_length n s).trans hlen, fun j hj => ?_, ?_⟩
  · rw [cdbAppended_cdb_getD (h12.trans hlen.symm).le, show s.ata.clen + n = 12 from h12]
    simp only [hj, and_true]; rfl
  intro t lba cnt
  have hexec : exec (.ataDataWrite w count) s = commit s (cdbExecute (cdbAppended n s)) := exec_ataDataWrite_twelfth hdrq htag h12
  have hlba : (BitVec.ofNat 32 lba).toNat = lba := by rw [← be32_eq_ofNat, be32n]
  have hcnt : (BitVec.ofNat 16 cnt).toNat = cnt := by rw [← be16_eq_ofNat, be16n]
  refine ⟨fun hop => ?_, fun hop => ?_, fun h28 h00 => ?_⟩
  · have hread := cdbExecute_read10 hop
    rw [be32_eq_ofNat, be16_eq_ofNat, cdbAppended_beginCdb] at hread
    refine ⟨fun hrange hfull => ?_, fun hok => ?_⟩
    · rw [hexec, hread]
      exact congrArg (commit s) (read10_full (by rwa [hlba, hcnt]) (by rwa [hcnt]))
    · obtain ⟨u, hu⟩ := cdbRead10_completes (s := t) (by rwa [hlba, hcnt])
      rw [hexec, hread]
      exact commit_eq_of_ok hu
  · rw [hexec, cdbExecute_testUnitReady hop, cdbAppended_beginCdb]; rfl
  · rw [hexec, cdbExecute_unrecognized h28 h00]; rfl

theorem exec_cdbRead10 (lba : BitVec 32) (cnt : BitVec 16) (s : State) :
    exec (.cdbRead10 lba cnt) s = commit s (cdbRead10 lba cnt s) := rfl

theorem exec_cdbTestUnitReady (s : State) :
    exec .cdbTestUnitReady s = .next { s with ata := { s.ata with status := s.ata.status &&& 0x7F } } := by
  rw [← clear_bsy]; rfl

/-- A range of the image at the start of a buffer that holds it. -/
theorem overwrite_slice_getD {l img : List Byte} {first n : Nat} (himg : first + n ≤ img.length) (hl : n ≤ l.length) (j : Nat) :
    (overwrite l 0 (slice img first n)).getD j 0 = if j < n then img.getD (first + j) 0 else l.getD j 0 := by
  have hlen : (slice img first n).length = n := by rw [slice_length]; omega
  rw [overwrite_getD _ _ _ (by omega), hlen]
  simp only [Nat.zero_le, true_and, Nat.zero_add, Nat.sub_zero]
  split
  · next hj => exact slice_getD _ _ _ hj
  · rfl

/-- Settles O51: past the medium, past the buffer, no sector, or the transfer. -/
theorem ataCdbCommands : Obligations.AtaCdbCommands := by
  refine ⟨?_, exec_cdbTestUnitReady⟩
  intro lba cnt s a first n
  rw [exec_cdbRead10]
  refine ⟨fun hpast => ?_, fun hrange => ⟨fun hfull => ?_, fun hzero => ?_, fun hcnt hcap hbuf himg => ?_⟩⟩
  · rw [read10_abort hpast, abort_eq]; rfl
  · rw [read10_full hrange hfull]; rfl
  · rw [read10_data hrange (by rw [hzero]; exact Nat.zero_le _), if_pos hzero]; rfl
  · refine ⟨_, overwrite_length _ _ _, overwrite_slice_getD (hrange.trans_eq himg.symm) (hcap.trans_eq hbuf.symm), ?_⟩
    rw [read10_data hrange hcap, if_neg hcnt]; rfl

/-! ## The data phase (R335, R360) -/

theorem identify_length (u : AtaUnit) (size : Nat) : (Config.identify u size).length = 512 := by
  rw [Config.identify, List.length_map, List.length_range]

theorem identify_getD (u : AtaUnit) (size : Nat) {j : Nat} (h : j < 512) :
    (Config.identify u size).getD j 0 = Config.identifyByte u size j := by
  rw [List.getD_eq_getElem _ _ (by rwa [identify_length])]
  simp only [Config.identify, List.getElem_map, List.getElem_range]

theorem exec_ataIdentifyDone_worker {s : State} {u : AtaUnit} (h : s.ata.tag = .identify u) :
    exec .ataIdentifyDone s = .next { s with ata := { s.ata with
      dbuf := overwrite s.ata.dbuf 0 (Config.identify u (imageSize s.params u))
      dsize := 512
      dread := 0
      status := (s.ata.status &&& 0x7F) ||| 0x08
      tag := .none } } := by
  show execAtaIdentifyDone s = _
  rw [execAtaIdentifyDone, h, data_status]

theorem exec_ataIdentifyDone_idle {s : State} (h : ∀ u, s.ata.tag ≠ .identify u) : exec .ataIdentifyDone s = .next s := by
  show execAtaIdentifyDone s = _
  unfold execAtaIdentifyDone
  split
  · next u hu => exact absurd hu (h u)
  · rfl

/-- Settles O52: the worker's block is the buffer's first 512 bytes. -/
theorem ataIdentifyDone : Obligations.AtaIdentifyDone := by
  intro s a
  refine ⟨fun u hu hroom => ⟨_, overwrite_length _ _ _, fun j => ?_, exec_ataIdentifyDone_worker hu⟩, exec_ataIdentifyDone_idle⟩
  rw [overwrite_getD _ _ _ (by rwa [identify_length, Nat.zero_add]), identify_length]
  simp only [Nat.zero_le, true_and, Nat.zero_add, Nat.sub_zero]
  split
  · next hj => rw [identify_getD u _ hj]; cases u <;> rfl
  · rfl

section DataRead

variable {w : DataWidth} {count : BitVec 32} {s : State}

theorem exec_ataDataRead_none (h : s.ata.status.getLsbD 3 = false ∨ s.ata.tag ≠ .none ∨ s.ata.dread = s.ata.dsize) :
    exec (.ataDataRead w count) s = .next (raiseFatal .readPastData s) :=
  congrArg (commit s) (if_pos h)

theorem exec_ataDataRead_data (hdrq : s.ata.status.getLsbD 3 = true) (htag : s.ata.tag = .none) (hleft : s.ata.dread < s.ata.dsize) :
    let k := min (w.size.bytes * count.toNat) (s.ata.dsize - s.ata.dread)
    exec (.ataDataRead w count) s = .next (State.reply { s with ata := s.ata.advance k } (slice s.ata.dbuf s.ata.dread k)) := by
  refine congrArg (commit s) (if_neg ?_)
  rintro (h | h | h)
  · cases hdrq.symm.trans h
  · exact h htag
  · exact hleft.ne h

end DataRead

/-- Settles O53: the reply is the slice of the buffer from the cursor on, as long as the clamp leaves it. The
obligation's own name, `ataDataRead`, is the model's function. -/
theorem ataDataRead_holds : Obligations.AtaDataRead := by
  intro w count s n a
  refine ⟨exec_ataDataRead_none, fun hdrq htag hleft hbuf hmem => ?_⟩
  have hlen : (slice a.dbuf a.dread (min n (a.dsize - a.dread))).length = min n (a.dsize - a.dread) := by
    rw [slice_length]; omega
  refine ⟨_, hlen, fun j hj => slice_getD _ _ _ (hj.trans_eq hlen), ?_⟩
  rw [exec_ataDataRead_data hdrq htag hleft, advance_eq a n hleft]
  refine completes_reply ?_ _
  exact hmem

/-! ## Device control (R361) -/

theorem Ata.identifying_iff (a : Ata) : a.identifying = true ↔ ∃ u, a.tag = .identify u := by
  unfold Ata.identifying
  split
  · next u hu => exact iff_of_true rfl ⟨u, hu⟩
  · next hu => exact iff_of_false Bool.false_ne_true fun ⟨u, h⟩ => hu u h

section Devctl

variable {b : Byte} {s : State}

theorem exec_ataDevctl_busy (hset : s.ata.devctl.getLsbD 2 = true) (hclear : b.getLsbD 2 = false) (h : s.ata.identifying = true) :
    exec (.ataDevctl b) s = .next (raiseFatal .busy s) :=
  congrArg (commit s) ((if_pos ⟨hset, hclear⟩).trans (if_pos h))

theorem exec_ataDevctl_reset (hset : s.ata.devctl.getLsbD 2 = true) (hclear : b.getLsbD 2 = false) (h : ¬ s.ata.identifying = true) :
    exec (.ataDevctl b) s = .next { s with ata := { s.ata.softReset with devctl := b } } :=
  congrArg (commit s) ((if_pos ⟨hset, hclear⟩).trans (if_neg h))

theorem exec_ataDevctl_store (h : s.ata.devctl.getLsbD 2 = false ∨ b.getLsbD 2 = true) :
    exec (.ataDevctl b) s = .next { s with ata := { s.ata with devctl := b } } := by
  refine congrArg (commit s) (if_neg ?_)
  rintro ⟨hset, hclear⟩
  rw [hset, hclear] at h
  simp at h

end Devctl

/-- Settles O54: a falling edge, with a worker or without, or none. -/
theorem ataDeviceControl : Obligations.AtaDeviceControl := by
  intro b s a
  refine ⟨fun hset hclear => ⟨fun hu => ?_, fun hu => ?_⟩, exec_ataDevctl_store⟩
  · exact exec_ataDevctl_busy hset hclear ((Ata.identifying_iff a).2 hu)
  · rw [exec_ataDevctl_reset hset hclear fun hi => ((Ata.identifying_iff a).1 hi).elim hu, Ata.softReset, List.map_const']

end Sys2Proof.Machine
end

section
/-! SUPPORT. The DMA family (45_dma.md): what the writes do, and that the two units' contents reach nothing else. -/

namespace Sys2Proof.Machine

/-! ## A state with other contents of the two units (R385) -/

/-- `s`, its two DMA units holding `d0` and `d1`. -/
def State.withDma (s : State) (d0 d1 : Dma) : State := { s with dma0 := d0, dma1 := d1 }

/-- A body of a step that ends where `r` ends but for the units' contents, or raises what `r` raises. -/
def resultWithDma (d0 d1 : Dma) : Result → Result
  | .ok t => .ok (t.withDma d0 d1)
  | .error x => .error x

/-- A step that ends where `o` ends but for the units' contents, or stops as `o` stops. -/
def outcomeWithDma (d0 d1 : Dma) : Host.Outcome State Fault Refusal → Host.Outcome State Fault Refusal
  | .next t => .next (t.withDma d0 d1)
  | .fault x => .fault x
  | .refused x => .refused x

section WithDma

variable (s : State) (d0 d1 : Dma)

@[simp] theorem withDma_pic (u : PicUnit) : (s.withDma d0 d1).pic u = s.pic u := by cases u <;> rfl
@[simp] theorem withDma_pit (c : PitChan) : (s.withDma d0 d1).pit c = s.pit c := by cases c <;> rfl
@[simp] theorem withDma_fatal : (s.withDma d0 d1).fatal = s.fatal := rfl
@[simp] theorem withDma_inputs : (s.withDma d0 d1).inputs = s.inputs := rfl
@[simp] theorem withDma_kbc : (s.withDma d0 d1).kbc = s.kbc := rfl
@[simp] theorem withDma_ata : (s.withDma d0 d1).ata = s.ata := rfl

/-- A write of one unit leaves the contents of the other. -/
theorem setDma_withDma (k : DmaUnit) (d d' : Dma) :
    ∃ e0 e1, (s.withDma d0 d1).setDma k d' = (s.setDma k d).withDma e0 e1 := by
  cases k with
  | slave => exact ⟨d', d1, rfl⟩
  | master => exact ⟨d0, d', rfl⟩

theorem setPic_withDma (u : PicUnit) (p : Pic) : (s.withDma d0 d1).setPic u p = (s.setPic u p).withDma d0 d1 := by cases u <;> rfl

theorem setPit_withDma (c : PitChan) (q : Pit) : (s.withDma d0 d1).setPit c q = (s.setPit c q).withDma d0 d1 := by cases c <;> rfl

theorem deliver_withDma (i : Input) (rest : List Input) :
    deliver (s.withDma d0 d1) i rest = (deliver s i rest).withDma d0 d1 := by cases i <;> rfl

/-- R131: the decoder reads nothing of the two units. -/
theorem fetchInstr_withDma (i : Input) : fetchInstr (s.withDma d0 d1) i = fetchInstr s i := by cases i <;> rfl

/-! ## The shared operations beside the two units -/

theorem enqueued_withDma (b : Byte) : enqueued b (s.withDma d0 d1) = (enqueued b s).withDma d0 d1 := rfl

theorem pitTick_withDma : pitTick (s.withDma d0 d1) = (pitTick s).withDma d0 d1 := rfl

theorem deliverFrom_withDma (u : PicUnit) : deliverFrom u (s.withDma d0 d1) = (deliverFrom u s).withDma d0 d1 := by
  cases ht : (s.pic u).take with
  | none => rw [deliverFrom_none ht, deliverFrom_none (by rwa [withDma_pic])]
  | some vp =>
    rw [deliverFrom_some ht, deliverFrom_some (by rwa [withDma_pic]), setPic_withDma]
    rfl

theorem latchStatus_withDma (c : PitChan) : latchStatus c (s.withDma d0 d1) = (latchStatus c s).withDma d0 d1 := by
  unfold latchStatus
  rw [withDma_pit, setPit_withDma]
  split <;> rfl

theorem readbackChan_withDma (countN statusN : Bool) (c : PitChan) :
    readbackChan countN statusN c (s.withDma d0 d1) = (readbackChan countN statusN c s).withDma d0 d1 := by
  unfold readbackChan
  rw [withDma_pit, setPit_withDma]
  cases countN <;> cases statusN
  · exact latchStatus_withDma _ _ _ _
  · rfl
  · exact latchStatus_withDma _ _ _ _
  · rfl

/-- One channel of R244, when its select bit `sel` is set. -/
theorem readbackSelected_withDma (countN statusN sel : Bool) (c : PitChan) :
    (if sel then readbackChan countN statusN c (s.withDma d0 d1) else s.withDma d0 d1) =
      (if sel then readbackChan countN statusN c s else s).withDma d0 d1 := by
  cases sel with
  | false => rfl
  | true => exact readbackChan_withDma _ _ _ _ _ _

theorem readbackAll_withDma (countN statusN : Bool) (sel : BitVec 3) :
    readbackAll countN statusN sel (s.withDma d0 d1) = (readbackAll countN statusN sel s).withDma d0 d1 := by
  simp only [readbackAll, readbackSelected_withDma]

/-! ## The bodies of a step beside the two units -/

/-- Two bodies chosen by one test. -/
theorem resultWithDma_ite (c : Prop) [Decidable c] (r q : Result) :
    resultWithDma d0 d1 (if c then r else q) = if c then resultWithDma d0 d1 r else resultWithDma d0 d1 q := apply_ite ..

theorem resultWithDma_bind (r : Result) {f : State → Result} (hf : ∀ t, f (t.withDma d0 d1) = resultWithDma d0 d1 (f t)) :
    resultWithDma d0 d1 r >>= f = resultWithDma d0 d1 (r >>= f) := by
  cases r with
  | ok t => exact hf t
  | error x => rfl

/-- A body that answers with other contents as without commits so. -/
theorem commit_withDma {r r' : Result} (h : r' = resultWithDma d0 d1 r) :
    commit (s.withDma d0 d1) r' = outcomeWithDma d0 d1 (commit s r) := by
  subst h
  cases r <;> rfl

theorem picCommand_withDma (u : PicUnit) (f : Pic → Pic) :
    picCommand u f (s.withDma d0 d1) = resultWithDma d0 d1 (picCommand u f s) := by
  rw [picCommand, withDma_pic, setPic_withDma, picCommand, resultWithDma_ite]; rfl

theorem pitWrite_withDma (c : PitChan) (f : Pit → Pit) :
    pitWrite c f (s.withDma d0 d1) = resultWithDma d0 d1 (pitWrite c f s) := by
  rw [pitWrite, withDma_pit, setPit_withDma, pitWrite, resultWithDma_ite]; rfl

theorem pitRead_withDma (c : PitChan) {f : State → State} (hf : f (s.withDma d0 d1) = (f s).withDma d0 d1) :
    pitRead c f (s.withDma d0 d1) = resultWithDma d0 d1 (pitRead c f s) := by
  rw [pitRead, withDma_pit, hf, pitRead, resultWithDma_ite]; rfl

theorem setKbc_withDma (f : Kbc → Kbc) : setKbc f (s.withDma d0 d1) = resultWithDma d0 d1 (setKbc f s) := rfl

theorem enqueue_withDma (b : Byte) : enqueue b (s.withDma d0 d1) = resultWithDma d0 d1 (enqueue b s) := by
  rw [enqueue, enqueued_withDma, enqueue, resultWithDma_ite]; rfl

theorem kbcCommand_withDma {r r' : Result} (h : r' = resultWithDma d0 d1 r) :
    kbcCommand (s.withDma d0 d1) r' = resultWithDma d0 d1 (kbcCommand s r) := by
  rw [kbcCommand, h, kbcCommand, resultWithDma_ite]; rfl

/-- 43_kbc.md R288, R299, R300: a response, then a change of the controller's registers. -/
theorem respond_withDma (b : Byte) (f : Kbc → Kbc) :
    enqueue b (s.withDma d0 d1) >>= setKbc f = resultWithDma d0 d1 (enqueue b s >>= setKbc f) := by
  rw [enqueue_withDma]
  exact resultWithDma_bind d0 d1 _ fun t => setKbc_withDma t d0 d1 f

theorem pciAccess_withDma (size : Size) (lane : BitVec 2) {t t' : State} (h : t' = t.withDma d0 d1) :
    pciAccess size lane t' (s.withDma d0 d1) = resultWithDma d0 d1 (pciAccess size lane t s) := by
  rw [pciAccess, h, pciAccess, resultWithDma_ite]; rfl

theorem ataCommand_withDma (f : Ata → Ata) : ataCommand (s.withDma d0 d1) f = resultWithDma d0 d1 (ataCommand s f) := by
  rw [ataCommand, ataCommand, resultWithDma_ite]; rfl

theorem cdbRead10_withDma (lba : BitVec 32) (cnt : BitVec 16) :
    cdbRead10 lba cnt (s.withDma d0 d1) = resultWithDma d0 d1 (cdbRead10 lba cnt s) := by
  simp only [cdbRead10, resultWithDma_ite]; rfl

theorem cdbExecute_withDma : cdbExecute (s.withDma d0 d1) = resultWithDma d0 d1 (cdbExecute s) := by
  unfold cdbExecute
  rw [withDma_ata]
  dsimp only
  split
  · exact cdbRead10_withDma { s with ata := s.ata.beginCdb } d0 d1 _ _
  · rfl
  · rfl

theorem ataDataWrite_withDma (n : Nat) : ataDataWrite n (s.withDma d0 d1) = resultWithDma d0 d1 (ataDataWrite n s) := by
  have hexec : cdbExecute ((cdbAppended n s).withDma d0 d1) = _ := cdbExecute_withDma ..
  simp only [ataDataWrite, resultWithDma_ite]
  exact if_congr Iff.rfl rfl (if_congr Iff.rfl rfl (if_congr Iff.rfl hexec rfl))

theorem ataDataRead_withDma (n : Nat) : ataDataRead n (s.withDma d0 d1) = resultWithDma d0 d1 (ataDataRead n s) := by
  simp only [ataDataRead, resultWithDma_ite]; rfl

theorem ataDevctl_withDma (b : Byte) : ataDevctl b (s.withDma d0 d1) = resultWithDma d0 d1 (ataDevctl b s) := by
  simp only [ataDevctl, resultWithDma_ite]; rfl

/-! ## Steps beside the two units -/

theorem execKbcDataRead_withDma : execKbcDataRead (s.withDma d0 d1) = outcomeWithDma d0 d1 (execKbcDataRead s) := by
  unfold execKbcDataRead
  rw [withDma_kbc]
  split <;> rfl

theorem execKbdReset_withDma : execKbdReset (s.withDma d0 d1) = outcomeWithDma d0 d1 (execKbdReset s) := by
  refine commit_withDma s d0 d1 ?_
  rw [enqueue_withDma]
  refine resultWithDma_bind d0 d1 _ fun t => ?_
  rw [setKbc_withDma]
  exact resultWithDma_bind d0 d1 _ fun u => enqueue_withDma u d0 d1 0xAA

theorem execAtaIdentifyDone_withDma : execAtaIdentifyDone (s.withDma d0 d1) = outcomeWithDma d0 d1 (execAtaIdentifyDone s) := by
  unfold execAtaIdentifyDone
  rw [withDma_ata]
  split <;> rfl

end WithDma

/-- The three instructions whose meaning writes a DMA unit (R381 to R383). -/
def writesDma : Instr → Bool
  | .dmaMode .. | .dmaSingleMask .. | .dmaMasterReset .. => true
  | _ => false

/-- Every other instruction runs beside the two units: it neither reads nor writes them. -/
theorem exec_withDma {i : Instr} (hi : writesDma i = false) (s : State) (d0 d1 : Dma) :
    exec i (s.withDma d0 d1) = outcomeWithDma d0 d1 (exec i s) := by
  cases i with
  | dmaMode | dmaSingleMask | dmaMasterReset => cases hi
  | picIcw1 | picNseoi | picSeoi | picRotNseoi | picRotSeoi | picSetpri | picRotAeoiSet | picRotAeoiClr | picOcw2Nop | picOcw3 =>
    exact commit_withDma s d0 d1 (picCommand_withDma ..)
  | picIcw2 u | picIcw3 u | picIcw4 u | picOcw1 u => cases u <;> rfl
  | pitCw c | pitLatch c | pitDataRead c => cases c <;> rfl
  | pitReadback => exact congrArg _ (readbackAll_withDma ..)
  | pitWLsb | pitWMsb | pitWLow | pitWHigh => exact commit_withDma s d0 d1 (pitWrite_withDma ..)
  | pitRLatched c | pitRLive c => exact commit_withDma s d0 d1 (pitRead_withDma _ _ _ _ (by cases c <;> rfl))
  | kbcDataRead => exact execKbcDataRead_withDma ..
  | kbcReadConfig | kbcReadOutport | kbcTestPort1 => exact commit_withDma s d0 d1 (kbcCommand_withDma _ _ _ (enqueue_withDma ..))
  | kbcWriteConfig | kbcDisablePort2 | kbcEnablePort2 | kbcDisablePort1 | kbcEnablePort1 | kbcWriteOutport =>
    exact commit_withDma s d0 d1 (kbcCommand_withDma _ _ _ (setKbc_withDma ..))
  | kbcSelfTest => exact commit_withDma s d0 d1 (kbcCommand_withDma _ _ _ (respond_withDma ..))
  | kbdScansetArg | kbdSetScanset => exact commit_withDma s d0 d1 (respond_withDma ..)
  | kbdEnableScan | kbdDisableScan => exact commit_withDma s d0 d1 (enqueue_withDma ..)
  | kbdReset => exact execKbdReset_withDma ..
  | ataNop | ataIdentifyPacket | ataIdentify | ataPacket => exact commit_withDma s d0 d1 (ataCommand_withDma ..)
  | ataDataWrite => exact commit_withDma s d0 d1 (ataDataWrite_withDma ..)
  | ataDataRead => exact commit_withDma s d0 d1 (ataDataRead_withDma ..)
  | ataDevctl => exact commit_withDma s d0 d1 (ataDevctl_withDma ..)
  | cdbRead10 => exact commit_withDma s d0 d1 (cdbRead10_withDma ..)
  | pciDataRead | pciDataWrite => exact commit_withDma s d0 d1 (pciAccess_withDma _ _ _ _ _ rfl)
  | picDataRead | kbcStatusRead | ataLatchRead | ataErrorRead | ataStatusRead | ataAltstatusRead | pciAddrRead | cmosDataRead |
    ataLatchWrite | cdbTestUnitReady | pciAddrWrite | cmosIndex | cmosDataWrite | kbcConfigPayload | kbcOutportPayload => rfl
  | picTick ie =>
    cases ie with
    | false => rfl
    | true => exact congrArg Host.Outcome.next (by simp only [if_true, deliverFrom_withDma])
  | pitTick => exact congrArg _ (pitTick_withDma ..)
  | hostPending => rfl
  | ataIdentifyDone => exact execAtaIdentifyDone_withDma ..
  | hostTake u => exact congrArg _ (deliverFrom_withDma ..)

/-- What the units held before such a write shows in nothing but what they hold after it. -/
theorem exec_withDma_of_writesDma {i : Instr} (hi : writesDma i = true) (s : State) (d0 d1 : Dma) :
    ∃ e0 e1, exec i (s.withDma d0 d1) = outcomeWithDma e0 e1 (exec i s) := by
  cases i with
  | dmaMode | dmaSingleMask | dmaMasterReset =>
    obtain ⟨e0, e1, he⟩ := setDma_withDma s d0 d1 _ _ _
    exact ⟨e0, e1, congrArg Host.Outcome.next he⟩
  | _ => cases hi

theorem exec_withDma_exists (i : Instr) (s : State) (d0 d1 : Dma) :
    ∃ e0 e1, exec i (s.withDma d0 d1) = outcomeWithDma e0 e1 (exec i s) := by
  cases hi : writesDma i with
  | false => exact ⟨d0, d1, exec_withDma hi s d0 d1⟩
  | true => exact exec_withDma_of_writesDma hi s d0 d1

theorem step_withDma (s : State) (d0 d1 : Dma) : ∃ e0 e1, step (s.withDma d0 d1) = outcomeWithDma e0 e1 (step s) := by
  unfold step
  rw [withDma_fatal, withDma_inputs]
  split
  · exact ⟨d0, d1, rfl⟩
  · split
    · exact ⟨d0, d1, rfl⟩
    · rw [deliver_withDma, fetchInstr_withDma]
      split
      · exact exec_withDma_exists _ _ d0 d1
      · exact ⟨d0, d1, rfl⟩

/-- Settles O17: a step with other contents of the two units ends where the step ends but for those contents. -/
theorem dmaUnobservable : Obligations.DmaUnobservable := by
  intro s t d0 d1 hs
  obtain ⟨e0, e1, he⟩ := step_withDma s d0 d1
  rw [hs] at he
  exact ⟨e0, e1, he⟩

/-! ## Which instruction a byte on a unit's port is (R381 to R383) -/

/-- A one-byte OUT to a port of a unit that R166 accepts is decoded by the unit's own table. -/
theorem fetch_dma {k : DmaUnit} {port : BitVec 16} (hport : port ∈ [k.maskPort, k.modePort, k.resetPort])
    {off : BitVec 64} {b : Byte} {s : State} {rest : List Input} (h : Awaits s (outByte port off b) rest) :
    ∃ imm, (Wire.mk .out .b1 port 1 imm).byte = b ∧ fetchInstr (deliver s (outByte port off b) rest) (outByte port off b) =
      decodeDma k k.maskPort k.modePort k.resetPort ⟨.out, .b1, port, 1, imm⟩ := by
  simp only [List.mem_cons, List.not_mem_nil, or_false] at hport
  cases k with
  | slave => rcases hport with rfl | rfl | rfl <;> exact fetch_out (hd := .dma0) h rfl fun _ => rfl
  | master => rcases hport with rfl | rfl | rfl <;> exact fetch_out (hd := .dma1) h rfl fun _ => rfl

section Ports

variable {k : DmaUnit} {off : BitVec 64} {b : Byte} {s : State} {rest : List Input}

theorem step_dmaMode (h : Awaits s (outByte k.modePort off b) rest) :
    step s = exec (.dmaMode k b) (deliver s (outByte k.modePort off b) rest) := by
  obtain ⟨imm, rfl, hf⟩ := fetch_dma (k := k) (by simp) h
  exact step_ok h (hf.trans (by cases k <;> rfl))

theorem step_dmaSingleMask (h : Awaits s (outByte k.maskPort off b) rest) :
    step s = exec (.dmaSingleMask k (b.getLsbD 2) (b.setWidth 2)) (deliver s (outByte k.maskPort off b) rest) := by
  obtain ⟨imm, rfl, hf⟩ := fetch_dma (k := k) (by simp) h
  rw [BitVec.setWidth_eq_extractLsb' (by decide)]
  exact step_ok h (hf.trans (by cases k <;> rfl))

theorem step_dmaMasterReset (h : Awaits s (outByte k.resetPort off b) rest) :
    step s = exec (.dmaMasterReset k) (deliver s (outByte k.resetPort off b) rest) := by
  obtain ⟨imm, rfl, hf⟩ := fetch_dma (k := k) (by simp) h
  exact step_ok h (hf.trans (by cases k <;> rfl))

end Ports

/-! ## The mask, bit by bit (R382) -/

theorem channelBit_eq_levelBit : ∀ i : BitVec 2, channelBit i = levelBit (i.setWidth 3) := by decide

theorem channelBit_getLsbD (i : BitVec 2) (j : Nat) : (channelBit i).getLsbD j = decide (j = i.toNat) := by
  rw [channelBit_eq_levelBit, levelBit_getLsbD, BitVec.toNat_setWidth_of_le (by decide)]

theorem lowNibble_getLsbD : ∀ j < 8, (0x0F : Byte).getLsbD j = decide (j < 4) := by decide

theorem maskAfter_set_getLsbD (k : DmaUnit) (i : BitVec 2) (mask : Byte) {j : Nat} (hj : j < 8) :
    (maskAfter k true i mask).getLsbD j =
      (mask.getLsbD j || decide (j = i.toNat) || (decide (k = .master ∧ i = 0#2) && decide (j < 4))) := by
  rw [maskAfter, if_pos rfl]
  split
  · next hall =>
    rw [BitVec.getLsbD_or, BitVec.getLsbD_or, channelBit_getLsbD, lowNibble_getLsbD j hj, decide_eq_true hall, Bool.true_and]
  · next hone => rw [BitVec.getLsbD_or, channelBit_getLsbD, decide_eq_false hone, Bool.false_and, Bool.or_false]

theorem maskAfter_clear_getLsbD (k : DmaUnit) (i : BitVec 2) (mask : Byte) {j : Nat} (hj : j < 8) :
    (maskAfter k false i mask).getLsbD j = (mask.getLsbD j && decide (j ≠ i.toNat) && decide (j < 4)) := by
  rw [maskAfter, if_neg Bool.false_ne_true, BitVec.getLsbD_and, BitVec.getLsbD_and, BitVec.getLsbD_not, channelBit_getLsbD,
    lowNibble_getLsbD j hj, decide_eq_true hj, Bool.true_and, decide_not]

/-- Settles O55: each port's byte through the unit's table, each write by definition, the mask bit by bit. -/
theorem dmaWrites : Obligations.DmaWrites := by
  intro k b i off rest s d run
  have hset := fun j (hj : j < 8) => maskAfter_set_getLsbD k i d.mask hj
  have hclear := fun j (hj : j < 8) => maskAfter_clear_getLsbD k i d.mask hj
  refine ⟨?_, ?_, ?_, rfl, rfl, ⟨_, rfl, hset⟩, ⟨_, rfl, hclear⟩⟩
  · exact step_dmaMode
  · exact step_dmaSingleMask
  · exact step_dmaMasterReset

end Sys2Proof.Machine
end

section
/-! SUPPORT. The PCI family (46_pci.md): the blocks after reset, the address register, and bytes moved within one block. -/

namespace Sys2Proof.Machine

/-! ## The blocks after reset (R396) -/

theorem Pci.reset_blocks_getD {p : Params} {i : Nat} (hi : i < p.pciNumBlocks) :
    (Pci.reset p).blocks.getD i [] = pciInitBlock p i := by
  rw [Pci.reset, List.getD_eq_getElem _ _ (by rwa [List.length_map, List.length_range]), List.getElem_map, List.getElem_range]

theorem pciInitBlock_zero (p : Params) : pciInitBlock p 0 = 0x86 :: 0x80 :: 0x37 :: 0x12 :: p.pciHostRest := if_pos rfl

theorem pciInitBlock_plain {p : Params} {i : Nat} (hhost : i ≠ 0) (hdisplay : i ≠ p.pciDisplayIndex) :
    pciInitBlock p i = List.replicate 256 0 := (if_neg hhost).trans (if_neg hdisplay)

/-- Settles O25: the block at an index is `pciInitBlock` there; R6 makes the display's index a block, so block 0 is one too. -/
theorem pciInitialContents : Obligations.PciInitialContents := by
  intro p hp b
  have hblock {i : Nat} (hi : i < p.pciNumBlocks) : b.getD i [] = pciInitBlock p i := Pci.reset_blocks_getD hi
  have hpos : 0 < p.pciNumBlocks := by
    obtain ⟨-, -, -, -, -, -, -, hdisplay, -⟩ := hp
    exact Nat.zero_lt_of_lt hdisplay
  refine ⟨(State.inv_resetWith hp).blocks_length, fun i hi => ?_, ?_, fun i hi hhost hdisplay j => ?_⟩
  · rw [hblock hi, pciInitBlock_length hp]
  · rw [hblock hpos, pciInitBlock_zero]; rfl
  · rw [hblock hi, pciInitBlock_plain hhost hdisplay, List.getD_eq_getElem?_getD,
      List.getElem?_getD_replicate_default_eq]

/-! ## The address register (R397, R398) -/

/-- A bit field is a quotient by its position, cut to its width. -/
theorem extractLsb'_eq_ofNat_div {w : Nat} (v : BitVec w) (start n : Nat) :
    v.extractLsb' start n = BitVec.ofNat n (v.toNat / 2 ^ start) := by
  rw [BitVec.extractLsb', Nat.shiftRight_eq_div_pow]

theorem pciIndexOf_eq (v : Word) :
    pciIndexOf v = v.toNat / 2 ^ 16 % 256 * 32 + v.toNat / 2 ^ 11 % 32 * 8 + v.toNat / 2 ^ 8 % 8 := by
  simp only [pciIndexOf, extractLsb'_eq_ofNat_div, BitVec.toNat_ofNat, Nat.reducePow]

theorem pciRegOf_eq (v : Word) : pciRegOf v = BitVec.ofNat 6 (v.toNat / 4) := extractLsb'_eq_ofNat_div v 2 6

theorem leBytes_four (v : Word) : leBytes v 4 =
    [BitVec.ofNat 8 v.toNat, BitVec.ofNat 8 (v.toNat / 2 ^ 8), BitVec.ofNat 8 (v.toNat / 2 ^ 16),
      BitVec.ofNat 8 (v.toNat / 2 ^ 24)] := by
  have hbytes : leBytes v 4 = [v.extractLsb' 0 8, v.extractLsb' 8 8, v.extractLsb' 16 8, v.extractLsb' 24 8] := rfl
  rw [hbytes]
  simp only [extractLsb'_eq_ofNat_div, Nat.pow_zero, Nat.div_one]

theorem exec_pciAddrWrite (v : Word) (s : State) : exec (.pciAddrWrite v) s =
    .next { s with pci := { s.pci with addr := v, curIndex := pciIndexOf v, curReg := pciRegOf v } } := rfl

theorem exec_pciAddrRead (s : State) : exec .pciAddrRead s = .next (s.reply (leBytes s.pci.addr 4)) := rfl

/-- Settles O56: the cursors are bit fields of the value, and the reply is its four bytes. -/
theorem pciAddress : Obligations.PciAddress := by
  intro v s
  refine ⟨?_, fun hmem => ?_⟩
  · rw [exec_pciAddrWrite, pciIndexOf_eq, pciRegOf_eq]
  · rw [exec_pciAddrRead, leBytes_four]
    exact completes_reply hmem _

/-! ## The data port (R399 to R402) -/

/-- R400: the `n` bytes of the block under the cursor from `off` on. -/
def Pci.bytesAt (p : Pci) (off n : Nat) : List Byte := (List.range n).map fun i => p.block.getD (off + i) 0

@[simp] theorem Pci.bytesAt_length (p : Pci) (off n : Nat) : (p.bytesAt off n).length = n :=
  (List.length_map _).trans List.length_range

theorem Pci.bytesAt_getD (p : Pci) (off : Nat) {n j : Nat} (hj : j < n) :
    (p.bytesAt off n).getD j 0 = p.block.getD (off + j) 0 := by
  rw [List.getD_eq_getElem _ _ (by rwa [bytesAt_length])]
  simp only [bytesAt, List.getElem_map, List.getElem_range]

/-- R401: the block under the cursor with the `n` low bytes of `v` stored from `off` on. -/
def Pci.stored (p : Pci) (off n : Nat) (v : Word) : List Byte := overwrite p.block off (leBytes v n)

@[simp] theorem Pci.stored_length (p : Pci) (off n : Nat) (v : Word) : (p.stored off n v).length = p.block.length :=
  overwrite_length _ _ _

theorem Pci.stored_getD {p : Pci} {off n : Nat} (v : Word) (h : off + n ≤ p.block.length) (j : Nat) :
    (p.stored off n v).getD j 0 =
      if off ≤ j ∧ j < off + n then BitVec.ofNat 8 (v.toNat / 256 ^ (j - off)) else p.block.getD j 0 := by
  rw [stored, overwrite_getD _ _ _ (by rwa [leBytes_length]), leBytes_length]
  split
  · exact leBytes_getD v (by omega)
  · rfl

section Access

variable {size : Size} {lane : BitVec 2} {s : State}

theorem pciAccess_error (h : s.params.pciNumBlocks ≤ s.pci.curIndex ∨ 256 < pciOffset s.pci lane + size.bytes) (r : State) :
    pciAccess size lane r s = .error .outOfRange := if_pos h

theorem pciAccess_ok (hblock : s.pci.curIndex < s.params.pciNumBlocks) (hbyte : pciOffset s.pci lane + size.bytes ≤ 256)
    (r : State) : pciAccess size lane r s = .ok r := if_neg (by omega)

theorem exec_pciDataRead_outside (h : s.params.pciNumBlocks ≤ s.pci.curIndex ∨ 256 < pciOffset s.pci lane + size.bytes) :
    exec (.pciDataRead size lane) s = .next (raiseFatal .outOfRange s) :=
  congrArg (commit s) (pciAccess_error h _)

theorem exec_pciDataWrite_outside (h : s.params.pciNumBlocks ≤ s.pci.curIndex ∨ 256 < pciOffset s.pci lane + size.bytes)
    (v : Word) : exec (.pciDataWrite size lane v) s = .next (raiseFatal .outOfRange s) :=
  congrArg (commit s) (pciAccess_error h _)

variable (hblock : s.pci.curIndex < s.params.pciNumBlocks) (hbyte : pciOffset s.pci lane + size.bytes ≤ 256)
include hblock hbyte

theorem exec_pciDataRead_inside :
    exec (.pciDataRead size lane) s = .next (s.reply (s.pci.bytesAt (pciOffset s.pci lane) size.bytes)) :=
  congrArg (commit s) (pciAccess_ok hblock hbyte _)

theorem exec_pciDataWrite_inside (v : Word) : exec (.pciDataWrite size lane v) s =
    .next { s with pci := { s.pci with
      blocks := s.pci.blocks.set s.pci.curIndex (s.pci.stored (pciOffset s.pci lane) size.bytes v) } } :=
  congrArg (commit s) (pciAccess_ok hblock hbyte _)

end Access

/-- Settles O57: past the blocks or past the block both are F10; inside, a reply of the block's bytes and a store into it. -/
theorem pciData : Obligations.PciData := by
  intro size lane v s n off block
  refine ⟨fun hout => ⟨exec_pciDataRead_outside hout, exec_pciDataWrite_outside hout v⟩,
    fun hblock hbyte => ⟨fun hmem => ?_, fun hlen => ?_⟩⟩
  · refine ⟨s.pci.bytesAt off n, Pci.bytesAt_length _ _ _, fun _ => Pci.bytesAt_getD _ _, ?_⟩
    rw [exec_pciDataRead_inside hblock hbyte]
    exact completes_reply hmem _
  · exact ⟨s.pci.stored off n v, (Pci.stored_length _ _ _ _).trans hlen, Pci.stored_getD v (hbyte.trans_eq hlen.symm),
      exec_pciDataWrite_inside hblock hbyte v⟩

end Sys2Proof.Machine
end

section
/-! SUPPORT. The CMOS family (47_cmos.md): the three accesses, and that no other instruction reaches the device. -/

namespace Sys2Proof.Machine

/-! ## The accesses (R411 to R413) -/

/-- R411's fields as numbers: bits 6:0 are the remainder by 128, and bit 7 says the byte is at least that. -/
theorem exec_cmosIndex (b : Byte) (s : State) : exec (.cmosIndex b) s = .next { s with cmos := { s.cmos with
    idx := BitVec.ofNat 7 (b.toNat % 128), nmiDis := decide (128 ≤ b.toNat) } } := by
  have hidx : b.extractLsb' 0 7 = BitVec.ofNat 7 (b.toNat % 128) := by
    rw [extractLsb'_eq_ofNat_div, Nat.pow_zero, Nat.div_one]
    exact BitVec.eq_of_toNat_eq (Nat.mod_mod _ _).symm
  have hnmi : b.getLsbD 7 = decide (128 ≤ b.toNat) := BitVec.getLsbD_last b
  show execCmosIndex b s = _
  rw [execCmosIndex, hidx, hnmi]

theorem exec_cmosDataRead (s : State) :
    exec .cmosDataRead s = .next (s.reply [s.cmos.regs.getD s.cmos.idx.toNat 0]) := rfl

theorem exec_cmosDataWrite (b : Byte) (s : State) : exec (.cmosDataWrite b) s =
    .next { s with cmos := { s.cmos with regs := s.cmos.regs.set s.cmos.idx.toNat b } } := rfl

/-- A store inside a list is read back at its place, and every other place reads as before. -/
theorem getD_set_of_lt {l : List Byte} {i : Nat} (hi : i < l.length) (b : Byte) (j : Nat) :
    (l.set i b).getD j 0 = if j = i then b else l.getD j 0 := by
  simp only [List.getD_eq_getElem?_getD]
  split
  · next hj => rw [hj, List.getElem?_set_self hi, Option.getD_some]
  · next hj => rw [List.getElem?_set_ne (Ne.symm hj)]

/-- Settles O58: the index has seven bits, so with 128 registers the write's place is one of them. -/
theorem cmosAccess : Obligations.CmosAccess := by
  intro b s hlen i
  have hi : i < s.cmos.regs.length := hlen ▸ s.cmos.idx.isLt
  exact ⟨exec_cmosIndex b s, fun hmem => completes_reply hmem _,
    s.cmos.regs.set i b, List.length_set.trans hlen, getD_set_of_lt hi b, exec_cmosDataWrite b s⟩

/-! ## What leaves the device as it is (R416) -/

theorem deliverFrom_cmos (u : PicUnit) (s : State) : (deliverFrom u s).cmos = s.cmos := by
  unfold deliverFrom
  split
  · rfl
  · exact State.setPic_cmos s u _

theorem readbackAll_cmos (countN statusN : Bool) (sel : BitVec 3) (s : State) :
    (readbackAll countN statusN sel s).cmos = s.cmos := by
  obtain ⟨_, _, _, _, h⟩ := readbackAll_pit_only countN statusN sel s
  rw [h]

section Frame

variable {s t : State}

/-- A fatal leaves the device, so a body that leaves it is a step that leaves it. -/
theorem commit_cmos {r : Result} (h : commit s r = .next t) (hr : ∀ u, r = .ok u → u.cmos = s.cmos) : t.cmos = s.cmos := by
  cases r with
  | ok u => cases h; exact hr _ rfl
  | error x => cases h; exact raiseFatal_cmos x s

theorem bind_cmos {r : Result} {f : State → Result} (h : r >>= f = .ok t) (hr : ∀ u, r = .ok u → u.cmos = s.cmos)
    (hf : ∀ u, f u = .ok t → t.cmos = u.cmos) : t.cmos = s.cmos := by
  cases r with
  | ok u => exact (hf u h).trans (hr u rfl)
  | error x => cases h

/-- The form in which the shared operations' results are known. -/
theorem cmos_of_eq {u : State} (h : t = u) (hu : u.cmos = s.cmos) : t.cmos = s.cmos := h ▸ hu

theorem cmos_of_ata_only (h : t = { s with ata := t.ata }) : t.cmos = s.cmos := cmos_of_eq h rfl

theorem enqueue_cmos {b : Byte} (h : enqueue b s = .ok t) : t.cmos = s.cmos := cmos_of_eq (enqueue_cases h) rfl

theorem setKbc_cmos {f : Kbc → Kbc} (h : setKbc f s = .ok t) : t.cmos = s.cmos := by cases h; rfl

/-- 43_kbc.md R288, R299, R300: a response, then a change of the controller's registers. -/
theorem respond_cmos {b : Byte} {f : Kbc → Kbc} (h : enqueue b s >>= setKbc f = .ok t) : t.cmos = s.cmos :=
  bind_cmos h (fun _ => enqueue_cmos) fun _ => setKbc_cmos

/-- 43_kbc.md R303: a response, a change of the registers, a response. -/
theorem kbdReset_cmos (h : exec .kbdReset s = .next t) : t.cmos = s.cmos :=
  commit_cmos h fun _ hu => bind_cmos hu (fun _ => enqueue_cmos) fun _ hv =>
    bind_cmos hv (fun _ => setKbc_cmos) fun _ => enqueue_cmos

theorem kbcDataRead_cmos (h : exec .kbcDataRead s = .next t) : t.cmos = s.cmos := by
  cases hq : s.kbc.fifo with
  | nil => cases (exec_kbcDataRead_empty hq).symm.trans h; rfl
  | cons b bs => cases (exec_kbcDataRead_cons hq).symm.trans h; rfl

theorem ataDataRead_cmos {n : Nat} (h : ataDataRead n s = .ok t) : t.cmos = s.cmos := by
  obtain ⟨_, _, rfl⟩ := ataDataRead_cases h
  rfl

theorem ataIdentifyDone_cmos (h : execAtaIdentifyDone s = .next t) : t.cmos = s.cmos := by
  unfold execAtaIdentifyDone at h
  split at h
  · cases h; rfl
  · cases h; rfl

theorem picTick_cmos {ie : Bool} (h : exec (.picTick ie) s = .next t) : t.cmos = s.cmos := by
  cases ie with
  | false => cases h; rfl
  | true => cases h; exact (deliverFrom_cmos .secondary _).trans (deliverFrom_cmos .primary s)

/-! ## Every instruction -/

/-- The two instructions whose meaning writes the device (R411, R413). -/
def writesCmos : Instr → Bool
  | .cmosIndex _ | .cmosDataWrite _ => true
  | _ => false

/-- R416 of the whole device, by the operation each instruction's meaning comes to. -/
theorem exec_cmos {i : Instr} (hi : writesCmos i = false) (h : exec i s = .next t) : t.cmos = s.cmos := by
  cases i with
  | cmosIndex | cmosDataWrite => cases hi
  | picIcw1 | picNseoi | picSeoi | picRotNseoi | picRotSeoi | picSetpri | picRotAeoiSet | picRotAeoiClr | picOcw2Nop | picOcw3 =>
    exact commit_cmos h fun _ hu => cmos_of_eq (picCommand_cases hu) (State.setPic_cmos ..)
  | picIcw2 | picIcw3 | picIcw4 | picOcw1 => cases h; exact State.setPic_cmos s _ _
  | picDataRead | kbcStatusRead | ataLatchRead | ataErrorRead | ataStatusRead | ataAltstatusRead | pciAddrRead | cmosDataRead =>
    cases h; exact State.reply_cmos s _
  | pitCw | pitLatch | pitDataRead => cases h; exact State.setPit_cmos s _ _
  | pitReadback => cases h; exact readbackAll_cmos _ _ _ s
  | pitWLsb | pitWMsb | pitWLow | pitWHigh =>
    exact commit_cmos h fun _ hu => cmos_of_eq (pitWrite_cases hu) (State.setPit_cmos ..)
  | pitRLatched | pitRLive => exact commit_cmos h fun _ hu => cmos_of_eq (pitRead_cases hu) (State.setPit_cmos s _ _)
  | kbcDataRead => exact kbcDataRead_cmos h
  | kbcReadConfig | kbcTestPort1 | kbcReadOutport => exact commit_cmos h fun _ hu => enqueue_cmos (kbcCommand_cases hu)
  | kbcWriteConfig | kbcDisablePort2 | kbcEnablePort2 | kbcDisablePort1 | kbcEnablePort1 | kbcWriteOutport =>
    exact commit_cmos h fun _ hu => setKbc_cmos (kbcCommand_cases hu)
  | kbcSelfTest => exact commit_cmos h fun _ hu => respond_cmos (kbcCommand_cases hu)
  | kbdScansetArg | kbdSetScanset => exact commit_cmos h fun _ => respond_cmos
  | kbdEnableScan | kbdDisableScan => exact commit_cmos h fun _ => enqueue_cmos
  | kbdReset => exact kbdReset_cmos h
  | ataNop | ataIdentifyPacket | ataIdentify | ataPacket =>
    exact commit_cmos h fun _ hu => cmos_of_eq (ataCommand_cases hu) rfl
  | ataDataWrite => exact commit_cmos h fun _ hu => cmos_of_ata_only (ataDataWrite_ata_only hu)
  | ataDataRead => exact commit_cmos h fun _ => ataDataRead_cmos
  | ataDevctl => exact commit_cmos h fun _ hu => cmos_of_ata_only (ataDevctl_ata_only hu)
  | cdbRead10 => exact commit_cmos h fun _ hu => cmos_of_ata_only (cdbRead10_ata_only hu)
  | dmaMode | dmaSingleMask | dmaMasterReset => cases h; exact State.setDma_cmos s _ _
  | pciDataRead | pciDataWrite => exact commit_cmos h fun _ hu => cmos_of_eq (pciAccess_cases hu) rfl
  | ataLatchWrite | cdbTestUnitReady | pciAddrWrite | kbcConfigPayload | kbcOutportPayload | pitTick | hostPending =>
    cases h; rfl
  | picTick => exact picTick_cmos h
  | ataIdentifyDone => exact ataIdentifyDone_cmos h
  | hostTake => cases h; exact deliverFrom_cmos _ s

end Frame

/-- Settles O19: of the two instructions that write the device, the index write leaves the registers. -/
theorem cmosRegistersHold : Obligations.CmosRegistersHold := by
  intro i s t h hne
  cases hi : writesCmos i with
  | false => exact absurd (congrArg Cmos.regs (exec_cmos hi h)) hne
  | true =>
    cases i with
    | cmosIndex b => cases h; exact absurd rfl hne
    | cmosDataWrite b => cases h; exact ⟨b, rfl, rfl⟩
    | _ => cases hi

end Sys2Proof.Machine
end

section
/-! SUPPORT. The exceptions family (60_exceptions.md): what a step that raises leaves, and where a request bit can come from. -/

namespace Sys2Proof.Machine

/-! ## Steps that raise (R421, R422) -/

theorem fatalClass_ofHandler {x : FatalReason} (h : x.ofHandler = true) : fatalClass x = .b := by
  cases x with
  | duplicatePortRegistration | backingFileUnopenable | unclaimedPort => cases h
  | _ => rfl

/-- A transaction that stands for no instruction is F03 or a handler's reason, both of class (b). -/
theorem decodePort_error_class {c : SeqState} {w : Wire} {x : FatalReason} (h : decodePort c w = .error x) : fatalClass x = .b := by
  by_cases hc : handlerAt c.ports w.port = none
  · cases (decodePort_unclaimed hc).symm.trans h
    rfl
  · exact fatalClass_ofHandler (decodePort_error hc h)

theorem ataIdentifyDone_fatal {s t : State} (h : execAtaIdentifyDone s = .next t) : t.fatal = s.fatal := by
  unfold execAtaIdentifyDone at h
  split at h
  · cases h; rfl
  · cases h; rfl

/-- R422: neither the clocks, nor the worker, nor the host's own calls raise. -/
theorem exec_agent_fatal {a : AgentStep} {s t : State} (h : exec a.instr s = .next t) : t.fatal = s.fatal := by
  cases a with
  | picTick ie =>
    cases ie with
    | false => cases h; rfl
    | true => cases h; exact (deliverFrom_fatal .secondary _).trans (deliverFrom_fatal .primary s)
  | pitTick | hostPending => cases h; rfl
  | identifyDone => exact ataIdentifyDone_fatal h
  | hostTake u => cases h; exact deliverFrom_fatal u s

/-- An instruction that ends in a state with a fatal abandons its step for a reason of class (b). -/
theorem exec_raises {i : Instr} {s t : State} {r : FatalRecord} (hs : s.fatal = none) (h : exec i s = .next t)
    (ht : t.fatal = some r) : ∃ x, fatalClass x = .b ∧ t = raiseFatal x s := by
  obtain ⟨u, hu, hkept | ⟨x, hx, hraise⟩⟩ := exec_resolves i s
  · cases hu.symm.trans h
    cases (hkept.trans hs).symm.trans ht
  · cases hu.symm.trans h
    exact ⟨x, fatalClass_ofHandler hx, hraise⟩

/-- All that a step which raises can be: a transaction, delivered and then abandoned for a reason of class (b). -/
theorem step_raises {s t : State} {r : FatalRecord} (h : step s = .next t) (ht : t.fatal = some r) :
    ∃ (d : Descriptor) (host : List Byte) (rest : List Input) (x : FatalReason),
      s.inputs = .trap d host :: rest ∧ fatalClass x = .b ∧ t = raiseFatal x (deliver s (.trap d host) rest) := by
  obtain ⟨hs, ⟨-, rfl⟩ | ⟨i, rest, hi, hstep⟩⟩ := step_cases h
  · cases hs.symm.trans ht
  · have hdelivered : (deliver s i rest).fatal = none := (deliver_fatal s i rest).trans hs
    cases i with
    | trap d host =>
      obtain ⟨x, -, hexec⟩ | ⟨x, hfetch, hraise⟩ := hstep
      · obtain ⟨y, hy, hraise⟩ := exec_raises hdelivered hexec ht
        exact ⟨d, host, rest, y, hi, hy, hraise⟩
      · exact ⟨d, host, rest, x, hi, decodePort_error_class hfetch, hraise⟩
    | agent a =>
      obtain ⟨x, hfetch, hexec⟩ | ⟨x, hfetch, -⟩ := hstep
      · cases hfetch
        cases ht.symm.trans ((exec_agent_fatal hexec).trans hdelivered)
      · cases hfetch

/-- Settles O3: such a step is `raiseFatal` in the state its transaction is delivered in (`step_raises`), and nothing follows it. -/
theorem fatalStepKeepsState : Obligations.FatalStepKeepsState := by
  intro s t r _ hstep hfatal
  obtain ⟨d, host, rest, x, hi, hclass, rfl⟩ := step_raises hstep hfatal
  cases hfatal
  exact ⟨d, host, rest, hi, hclass, rfl, rfl, rfl, rfl, rfl, rfl, fun u hu => by cases (step_terminated rfl).symm.trans hu⟩

/-! ## Request bits (R430, 41_pic.md R210) -/

/-- A request bit that an admission sets is that of its level, which was neither in service nor masked. -/
theorem admitLevel_raised {p : Pic} {l x : BitVec 3} (h0 : p.irr.getLsbD x.toNat = false)
    (h1 : (p.admitLevel l).irr.getLsbD x.toNat = true) :
    x = l ∧ p.imr.getLsbD x.toNat = false ∧ p.isr.getLsbD x.toNat = false := by
  obtain ⟨v, hv, hwritten⟩ := admit_spec p l
  rw [hv, hwritten x] at h1
  by_cases hx : x = l
  · subst hx
    simpa [h0, and_comm] using h1
  · rw [if_neg hx, h0] at h1
    cases h1

/-- R430 of one source: the requests that rise are of one level of the primary unit, and admitted there. -/
theorem primary_raised {s t : State} {c : Bool} {l x : BitVec 3} {u : PicUnit}
    (hpic0 : t.pic0 = if c then s.pic0.admitLevel l else s.pic0) (hpic1 : t.pic1 = s.pic1)
    (h0 : (s.pic u).irr.getLsbD x.toNat = false) (h1 : (t.pic u).irr.getLsbD x.toNat = true) :
    u = .primary ∧ (s.pic u).imr.getLsbD x.toNat = false ∧ (s.pic u).isr.getLsbD x.toNat = false ∧ x = l ∧ c = true := by
  cases u with
  | secondary =>
    rw [State.pic_secondary] at h0 h1
    rw [hpic1, h0] at h1
    cases h1
  | primary =>
    rw [State.pic_primary] at h0 h1 ⊢
    rw [hpic0] at h1
    cases c with
    | false => cases h0.symm.trans h1
    | true =>
      obtain ⟨hl, himr, hisr⟩ := admitLevel_raised h0 h1
      exact ⟨rfl, himr, hisr, hl, rfl⟩

/-- Every request of `t` is one of `s`. -/
def State.KeepsRequests (s t : State) : Prop :=
  ∀ (u : PicUnit) (l : BitVec 3), (t.pic u).irr.getLsbD l.toNat = true → (s.pic u).irr.getLsbD l.toNat = true

namespace State.KeepsRequests

variable {s t u : State}

theorem of_irr_eq (h : ∀ v, (t.pic v).irr = (s.pic v).irr) : s.KeepsRequests t := fun v _ hl => h v ▸ hl

theorem of_pics_eq (h0 : t.pic0 = s.pic0) (h1 : t.pic1 = s.pic1) : s.KeepsRequests t :=
  of_irr_eq fun
    | .primary => congrArg Pic.irr h0
    | .secondary => congrArg Pic.irr h1

theorem refl (s : State) : s.KeepsRequests s := fun _ _ => id

theorem trans (h : s.KeepsRequests t) (k : t.KeepsRequests u) : s.KeepsRequests u := fun v l hl => h v l (k v l hl)

/-- A changed unit, when its requests are among those it had. -/
theorem setPic {v : PicUnit} {p : Pic} (h : ∀ l : BitVec 3, p.irr.getLsbD l.toNat = true → (s.pic v).irr.getLsbD l.toNat = true) :
    s.KeepsRequests (s.setPic v p) := by
  intro w l hl
  by_cases hw : w = v
  · subst hw
    rw [setPic_pic] at hl
    exact h l hl
  · rwa [setPic_pic_other _ _ _ _ hw] at hl

theorem setPic_irr {v : PicUnit} {p : Pic} (h : p.irr = (s.pic v).irr) : s.KeepsRequests (s.setPic v p) :=
  setPic fun _ hl => h ▸ hl

theorem setPit (s : State) (c : PitChan) (p : Pit) : s.KeepsRequests (s.setPit c p) := of_irr_eq fun v => by rw [setPit_pic]

theorem setDma (s : State) (k : DmaUnit) (d : Dma) : s.KeepsRequests (s.setDma k d) := of_pics_eq (by simp) (by simp)

theorem reply (s : State) (bs : List Byte) : s.KeepsRequests (s.reply bs) := of_pics_eq rfl rfl

theorem ata_only (h : t = { s with ata := t.ata }) : s.KeepsRequests t := h ▸ of_pics_eq rfl rfl

theorem raiseFatal (x : FatalReason) (s : State) : s.KeepsRequests (raiseFatal x s) := of_pics_eq rfl rfl

/-- The commands of 41_pic.md R181, none of which writes `irr`. -/
theorem picCommand {v : PicUnit} {f : Pic → Pic} (hf : ∀ p, (f p).irr = p.irr) (h : picCommand v f s = .ok t) :
    s.KeepsRequests t := picCommand_cases h ▸ setPic_irr (hf _)

theorem pitWrite {c : PitChan} {f : Pit → Pit} (h : pitWrite c f s = .ok t) : s.KeepsRequests t := pitWrite_cases h ▸ setPit s c _

theorem setKbc {f : Kbc → Kbc} (h : setKbc f s = .ok t) : s.KeepsRequests t := by cases h; exact of_pics_eq rfl rfl

theorem readbackAll (countN statusN : Bool) (sel : BitVec 3) (s : State) : s.KeepsRequests (readbackAll countN statusN sel s) := by
  obtain ⟨_, _, _, _, h⟩ := readbackAll_pit_only countN statusN sel s
  rw [h]
  exact of_pics_eq rfl rfl

theorem ataDataRead {n : Nat} (h : ataDataRead n s = .ok t) : s.KeepsRequests t := by
  obtain ⟨a, bs, rfl⟩ := ataDataRead_cases h
  exact of_pics_eq rfl rfl

theorem ataIdentifyDone (h : execAtaIdentifyDone s = .next t) : s.KeepsRequests t := by
  unfold execAtaIdentifyDone at h
  split at h
  · cases h; exact of_pics_eq rfl rfl
  · cases h; exact refl s

theorem kbcDataRead (h : exec .kbcDataRead s = .next t) : s.KeepsRequests t := by
  cases hq : s.kbc.fifo with
  | nil => cases (exec_kbcDataRead_empty hq).symm.trans h; exact reply s _
  | cons b bs => cases (exec_kbcDataRead_cons hq).symm.trans h; exact of_pics_eq rfl rfl

/-- 41_pic.md R211, R214: a delivery clears the request it takes. -/
theorem deliverFrom (v : PicUnit) (s : State) : s.KeepsRequests (deliverFrom v s) := by
  by_cases hpending : (s.pic v).irr &&& ~~~ (s.pic v).imr = 0
  · rw [deliverFrom_none (take_none hpending)]
    exact refl s
  · obtain ⟨l, irr, isr, -, hirr, -, htake⟩ := take_some hpending
    rw [deliverFrom_some htake]
    refine (setPic (v := v) fun x hx => ?_).trans (of_pics_eq rfl rfl)
    rw [hirr x] at hx
    split at hx
    · cases hx
    · exact hx

theorem picTick {ie : Bool} (h : exec (.picTick ie) s = .next t) : s.KeepsRequests t := by
  cases ie with
  | false => cases h; exact refl s
  | true => cases h; exact (deliverFrom .primary s).trans (deliverFrom .secondary _)

end State.KeepsRequests

theorem Pic.nonSpecificEoi_irr (p : Pic) : p.nonSpecificEoi.irr = p.irr := by
  unfold Pic.nonSpecificEoi
  split <;> rfl

theorem Pic.rotateNonSpecificEoi_irr (p : Pic) : p.rotateNonSpecificEoi.irr = p.irr := by
  unfold Pic.rotateNonSpecificEoi
  split <;> rfl

/-! ## The two sources -/

theorem raiseWhen_zero_pic0 (c : Bool) (s : State) :
    (raiseWhen c 0 s).pic0 = if c then s.pic0.admitLevel 0 else s.pic0 := by
  cases c <;> rfl

theorem raiseWhen_one_pic0 (c : Bool) (s : State) :
    (raiseWhen c 1 s).pic0 = if c then s.pic0.admitLevel 1 else s.pic0 := by
  cases c <;> rfl

theorem pitTick_pic0 (s : State) :
    (pitTick s).pic0 = if (s.pit0.tick s.params.pitTickModes).2 then s.pic0.admitLevel 0 else s.pic0 := raiseWhen_zero_pic0 _ _

theorem pitTick_pic1 (s : State) : (pitTick s).pic1 = s.pic1 := ite_self s.pic1

/-- 42_pit.md R262: a channel's count reaches 0 from 1, while it counts. -/
theorem Pit.tick_reached {modes : BitVec 8} {q : Pit} (h : (q.tick modes).2 = true) : q.counting modes = true ∧ q.count = 1 := by
  by_contra hquiet
  rw [Pit.tick_quiet (not_and_or.1 hquiet)] at h
  cases h

/-- 43_kbc.md R281: from `s` to `t` responses were queued, and IRQ1 raised if configuration bit 0 is set. A second response
raises nothing more (`admit_admit`), so two of them are as one here. -/
structure State.Responds (s t : State) : Prop where
  pic0_eq : t.pic0 = if s.kbc.config.getLsbD 0 then s.pic0.admitLevel 1 else s.pic0
  pic1_eq : t.pic1 = s.pic1
  config_eq : t.kbc.config = s.kbc.config
  fifo_grows : s.kbc.fifo.length < t.kbc.fifo.length

theorem enqueued_pic0 (b : Byte) (s : State) :
    (enqueued b s).pic0 = if s.kbc.config.getLsbD 0 then s.pic0.admitLevel 1 else s.pic0 := raiseWhen_one_pic0 _ _

theorem enqueued_pic1 (b : Byte) (s : State) : (enqueued b s).pic1 = s.pic1 := ite_self s.pic1

theorem enqueued_fifo_length (b : Byte) (s : State) : (enqueued b s).kbc.fifo.length = s.kbc.fifo.length + 1 :=
  List.length_append

namespace State.Responds

variable {s t u : State}

theorem enqueue {b : Byte} (h : enqueue b s = .ok t) : s.Responds t := by
  cases enqueue_cases h
  exact ⟨enqueued_pic0 b s, enqueued_pic1 b s, rfl, by rw [enqueued_fifo_length]; omega⟩

/-- A change of the registers that leaves the FIFO and the configuration, after the response. -/
theorem setKbc (h : s.Responds u) {f : Kbc → Kbc} (hf : ∀ k, (f k).fifo = k.fifo ∧ (f k).config = k.config)
    (ht : setKbc f u = .ok t) : s.Responds t := by
  cases ht
  obtain ⟨hfifo, hconfig⟩ := hf u.kbc
  exact ⟨h.pic0_eq, h.pic1_eq, hconfig.trans h.config_eq, h.fifo_grows.trans_eq (congrArg List.length hfifo.symm)⟩

theorem enqueue_again (h : s.Responds u) {b : Byte} (ht : Machine.enqueue b u = .ok t) : s.Responds t := by
  have k : u.Responds t := enqueue ht
  refine ⟨?_, k.pic1_eq.trans h.pic1_eq, k.config_eq.trans h.config_eq, h.fifo_grows.trans k.fifo_grows⟩
  rw [k.pic0_eq, h.pic0_eq, h.config_eq]
  split
  · exact admit_admit s.pic0 1
  · rfl

/-- R288, R299, R300: a response, then a change of the registers. -/
theorem respond {b : Byte} {f : Kbc → Kbc} (h : Machine.enqueue b s >>= Machine.setKbc f = .ok t)
    (hf : ∀ k, (f k).fifo = k.fifo ∧ (f k).config = k.config) : s.Responds t := by
  cases hu : Machine.enqueue b s with
  | error x => rw [hu] at h; cases h
  | ok u => rw [hu] at h; exact (enqueue hu).setKbc hf h

/-- R303: a response and a change of the status, then a second response. -/
theorem respond_twice {b c : Byte} {f : Kbc → Kbc}
    (h : (do let u ← Machine.enqueue b s; let v ← Machine.setKbc f u; Machine.enqueue c v) = .ok t)
    (hf : ∀ k, (f k).fifo = k.fifo ∧ (f k).config = k.config) : s.Responds t := by
  cases hu : Machine.enqueue b s with
  | error x => rw [hu] at h; cases h
  | ok u => rw [hu] at h; exact ((enqueue hu).setKbc hf rfl).enqueue_again h

end State.Responds

/-- What an instruction that leads from `s` to `t` does to the request bits (R430). -/
inductive RequestsChange (i : Instr) (s t : State) : Prop where
  | keeps (h : s.KeepsRequests t)
  | responds (h : s.Responds t)
  | ticks (hi : i = .pitTick) (ht : t = pitTick s)

namespace RequestsChange

variable {i : Instr} {s t : State} {r : Result}

theorem of_commit (h : commit s r = .next t) (hr : ∀ u, r = .ok u → RequestsChange i s u) : RequestsChange i s t := by
  cases r with
  | ok u => cases h; exact hr _ rfl
  | error x => cases h; exact .keeps (.raiseFatal x s)

theorem commit_keeps (h : commit s r = .next t) (hr : ∀ u, r = .ok u → s.KeepsRequests u) : RequestsChange i s t :=
  of_commit h fun u hu => .keeps (hr u hu)

theorem commit_responds (h : commit s r = .next t) (hr : ∀ u, r = .ok u → s.Responds u) : RequestsChange i s t :=
  of_commit h fun u hu => .responds (hr u hu)

/-- Every instruction, by the operation its meaning comes to. -/
theorem exec (h : exec i s = .next t) : RequestsChange i s t := by
  cases i with
  | pitTick => cases h; exact .ticks rfl rfl
  | kbcReadConfig | kbcTestPort1 | kbcReadOutport => exact commit_responds h fun _ hu => .enqueue (kbcCommand_cases hu)
  | kbcSelfTest => exact commit_responds h fun _ hu => .respond (kbcCommand_cases hu) fun _ => ⟨rfl, rfl⟩
  | kbdScansetArg | kbdSetScanset => exact commit_responds h fun _ hu => .respond hu fun _ => ⟨rfl, rfl⟩
  | kbdEnableScan | kbdDisableScan => exact commit_responds h fun _ => .enqueue
  | kbdReset => exact commit_responds h fun _ hu => .respond_twice hu fun _ => ⟨rfl, rfl⟩
  | picIcw1 | picSeoi | picRotSeoi | picSetpri | picRotAeoiSet | picRotAeoiClr | picOcw2Nop | picOcw3 =>
    exact commit_keeps h fun _ => .picCommand fun _ => rfl
  | picNseoi => exact commit_keeps h fun _ => .picCommand Pic.nonSpecificEoi_irr
  | picRotNseoi => exact commit_keeps h fun _ => .picCommand Pic.rotateNonSpecificEoi_irr
  | picIcw2 | picIcw3 | picIcw4 | picOcw1 => cases h; exact .keeps (.setPic_irr rfl)
  | picDataRead | kbcStatusRead | ataLatchRead | ataErrorRead | ataStatusRead | ataAltstatusRead | pciAddrRead | cmosDataRead =>
    cases h; exact .keeps (.reply s _)
  | pitCw | pitLatch => cases h; exact .keeps (.setPit s _ _)
  | pitReadback => cases h; exact .keeps (.readbackAll _ _ _ s)
  | pitWLsb | pitWMsb | pitWLow | pitWHigh => exact commit_keeps h fun _ => .pitWrite
  | pitDataRead => cases h; exact .keeps ((State.KeepsRequests.setPit s _ _).trans (.reply _ _))
  | pitRLatched | pitRLive =>
    exact commit_keeps h fun _ hu => pitRead_cases hu ▸ (State.KeepsRequests.setPit s _ _).trans (.reply _ _)
  | kbcDataRead => exact .keeps (.kbcDataRead h)
  | kbcWriteConfig | kbcDisablePort2 | kbcEnablePort2 | kbcDisablePort1 | kbcEnablePort1 | kbcWriteOutport =>
    exact commit_keeps h fun _ hu => .setKbc (kbcCommand_cases hu)
  | ataNop | ataIdentifyPacket | ataIdentify | ataPacket =>
    exact commit_keeps h fun _ hu => ataCommand_cases hu ▸ .of_pics_eq rfl rfl
  | ataDataWrite => exact commit_keeps h fun _ hu => .ata_only (ataDataWrite_ata_only hu)
  | ataDataRead => exact commit_keeps h fun _ => .ataDataRead
  | ataDevctl => exact commit_keeps h fun _ hu => .ata_only (ataDevctl_ata_only hu)
  | cdbRead10 => exact commit_keeps h fun _ hu => .ata_only (cdbRead10_ata_only hu)
  | dmaMode | dmaSingleMask | dmaMasterReset => cases h; exact .keeps (.setDma s _ _)
  | pciDataRead | pciDataWrite => exact commit_keeps h fun _ hu => pciAccess_cases hu ▸ .of_pics_eq rfl rfl
  | kbcConfigPayload | kbcOutportPayload | ataLatchWrite | cdbTestUnitReady | pciAddrWrite | cmosIndex | cmosDataWrite | hostPending =>
    cases h; exact .keeps (.of_pics_eq rfl rfl)
  | picTick => exact .keeps (.picTick h)
  | ataIdentifyDone => exact .keeps (.ataIdentifyDone h)
  | hostTake => cases h; exact .keeps (.deliverFrom _ s)

end RequestsChange

/-- Settles O15: of what an instruction does to the requests (`RequestsChange.exec`), a response and a tick raise one level of the
primary unit, and the rest sets no bit. -/
theorem interruptSources : Obligations.InterruptSources := by
  intro i s t u l hexec h0 h1
  obtain hkeeps | hresponds | ⟨rfl, rfl⟩ := RequestsChange.exec hexec
  · cases h0.symm.trans (hkeeps u l h1)
  · obtain ⟨hu, himr, hisr, hl, hconfig⟩ := primary_raised hresponds.pic0_eq hresponds.pic1_eq h0 h1
    exact ⟨hu, himr, hisr, .inr ⟨hl, hconfig, hresponds.fifo_grows⟩⟩
  · obtain ⟨hu, himr, hisr, hl, hreached⟩ := primary_raised (pitTick_pic0 s) (pitTick_pic1 s) h0 h1
    obtain ⟨hcounting, hone⟩ := Pit.tick_reached hreached
    obtain ⟨hloaded, hmode⟩ := (Pit.counting_iff _ _).1 hcounting
    exact ⟨hu, himr, hisr, .inl ⟨hl, rfl, hloaded, hmode, hone⟩⟩

end Sys2Proof.Machine
end

section
/-! SUPPORT. The reset family (70_reset_and_hazards.md): the invariant at reset, the state start-up ends in, and what R463 derives
from the reset values. -/

namespace Sys2Proof.Machine

/-! ## The invariant at reset (R462) -/

/-- R6: `Config.launch` meets each constraint by its shape, whatever its constants are (log 4). -/
theorem launch_wf : Config.launch.wf := by
  have hsector : Config.atapiSector ≤ Config.launch.ataBufCap := Nat.le_max_left ..
  refine ⟨?_, ?_, rfl, ?_, hsector, ?_, ?_, ?_, ?_, ?_, ?_⟩
  · show (Config.pitTickModes ||| 0x04#8).getLsbD 2 = true
    rw [BitVec.getLsbD_or]
    exact Bool.or_true _
  · exact Nat.le_add_left 3 _
  · exact Nat.le_trans (by decide) hsector
  · exact (List.length_map _).trans List.length_range
  · exact Nat.succ_ne_zero _
  · show Config.pciDisplayPred + 1 < Config.pciSpareBlocks + Config.pciDisplayPred + 2
    omega
  · exact (List.length_map _).trans List.length_range
  · exact (List.length_map _).trans List.length_range
  · exact (List.length_map _).trans List.length_range

/-- Settles O11: the invariant holds under any parameters within R6, and the launch parameters are within it. -/
theorem invariantAtReset : Obligations.InvariantAtReset := ⟨fun _ => State.inv_resetWith, State.inv_resetWith launch_wf⟩

/-! ## Start-up (R461, 40_dispatch.md R162) -/

/-- The thirteen registrations have an initializer for each device: of the state before, only what is no device's is left. -/
theorem runInits_registrations (s : State) : runInits registrations s =
    { State.resetWith s.params with
      ports := s.ports, fatal := s.fatal, events := s.events
      mem := s.mem, cur := s.cur, inputs := s.inputs, draws := s.draws, hostAnswer := s.hostAnswer } := rfl

theorem ranges_registrations : registrations.map (·.range) = portMap := rfl

/-- Settles O20: no registration raises (`startUp_perm`), and together they reset every device and claim the port map. -/
theorem startUpIsReset : Obligations.StartUpIsReset := by
  intro s
  rw [startUp_perm (List.Perm.refl _), runInits_registrations, ranges_registrations]
  rfl

/-! ## The agents' steps right after start-up (R463) -/

theorem awaits_resetWith (p : Params) (i : Input) (rest : List Input) :
    Awaits ((State.resetWith p).withInputs (i :: rest)) i rest := ⟨rfl, rfl, rfl, rfl⟩

/-- An agent's turn runs its instruction on the reset state with the input gone. -/
theorem step_agent_resetWith (p : Params) (a : AgentStep) (is : List Input) :
    step ((State.resetWith p).withInputs (.agent a :: is)) = exec a.instr ((State.resetWith p).withInputs is) :=
  step_ok (awaits_resetWith p _ is) rfl

/-- 10_state.md R35: no request is set. -/
theorem Pic.take_reset (base : Byte) : (Pic.reset base).take = none := take_none (show (0x00 : Byte) &&& ~~~ 0xFF = 0 by decide)

theorem deliverFrom_resetWith (p : Params) (u : PicUnit) (is : List Input) :
    deliverFrom u ((State.resetWith p).withInputs is) = (State.resetWith p).withInputs is := by
  refine deliverFrom_none ?_
  show ((State.resetWith p).pic u).take = none
  rw [resetWith_pic, Pic.take_reset]

/-- 42_pit.md R262: with no divisor loaded a tick changes no channel, and raises nothing. -/
theorem pitTick_unloaded {s : State} (h : ∀ c, (s.pit c).nullCount = true) : pitTick s = s := by
  have hidle (c : PitChan) : (s.pit c).tick s.params.pitTickModes = (s.pit c, false) :=
    Pit.tick_idle fun hc => by cases (h c).symm.trans ((Pit.counting_iff _ _).1 hc).1
  have h0 : s.pit0.tick s.params.pitTickModes = (s.pit0, false) := hidle .c0
  have h1 : s.pit1.tick s.params.pitTickModes = (s.pit1, false) := hidle .c1
  have h2 : s.pit2.tick s.params.pitTickModes = (s.pit2, false) := hidle .c2
  simp only [pitTick, h0, h1, h2, raiseWhen_false]

theorem step_hostTake_resetWith (p : Params) (u : PicUnit) (is : List Input) :
    step ((State.resetWith p).withInputs (.agent (.hostTake u) :: is)) = .next ((State.resetWith p).withInputs is) := by
  rw [step_agent_resetWith, AgentStep.instr, exec_hostTake, deliverFrom_resetWith]

theorem step_picTick_resetWith (p : Params) (ie : Bool) (is : List Input) :
    step ((State.resetWith p).withInputs (.agent (.picTick ie) :: is)) = .next ((State.resetWith p).withInputs is) := by
  rw [step_agent_resetWith, AgentStep.instr]
  cases ie with
  | false => rfl
  | true => rw [exec_picTick_true, deliverFrom_resetWith, deliverFrom_resetWith]

theorem step_pitTick_resetWith (p : Params) (is : List Input) :
    step ((State.resetWith p).withInputs (.agent .pitTick :: is)) = .next ((State.resetWith p).withInputs is) := by
  rw [step_agent_resetWith, AgentStep.instr, exec_pitTick, pitTick_unloaded]
  exact fun c => congrArg Pit.nullCount (resetWith_pit p c)

/-! ## The ATA data port without a data phase (R463, 44_ata.md R340, R360) -/

/-- 30_encoding.md R143: the data port stands for no instruction but its read and its write. -/
theorem decodePort_ataData {c : SeqState} {w : Wire} {x : Instr} (hc : c.ports = portMap) (hw : w.port = 0x1F0)
    (h : decodePort c w = .ok x) : ∃ z n, x = .ataDataWrite z n ∨ x = .ataDataRead z n := by
  have hx : handlerAt portMap w.port = some .ata := by rw [hw]; rfl
  cases ha : accepted w with
  | false =>
    rw [← hc] at hx
    simp only [decodePort, hx, ha, Bool.false_eq_true, if_false, reduceCtorEq] at h
  | true =>
    replace h : decodeAta c w = .ok x := (decode_accepted hc hx ha).symm.trans h
    rw [decodeAta, if_pos hw, decodeAtaData] at h
    split at h
    · cases h; exact ⟨_, _, .inl rfl⟩
    · cases h; exact ⟨_, _, .inl rfl⟩
    · cases h; exact ⟨_, _, .inr rfl⟩
    · cases h; exact ⟨_, _, .inr rfl⟩
    · cases h

/-- While DRQ is 0, a transaction at the data port is fatal, whatever its direction, size and count. -/
theorem step_ataData_fatal {s : State} {d : Descriptor} {host : List Byte} {rest : List Input} (h : Awaits s (.trap d host) rest)
    (hport : d.port = 0x1F0) (hdrq : s.ata.status.getLsbD 3 = false) :
    ∃ x, step s = .next (raiseFatal x (deliver s (.trap d host) rest)) := by
  obtain ⟨i, hi, hstep⟩ | ⟨x, -, hstep⟩ := step_next h.alive h.next_input
  · have hclosed : (deliver s (.trap d host) rest).ata.status.getLsbD 3 = false := by rwa [deliver_ata]
    obtain ⟨z, n, rfl | rfl⟩ := decodePort_ataData (by rw [deliver_seq]; exact h.ports_fixed) hport hi
    · exact ⟨_, hstep.trans (exec_ataDataWrite_outside (.inl hclosed))⟩
    · exact ⟨_, hstep.trans (exec_ataDataRead_none (.inl hclosed))⟩
  · exact ⟨x, hstep⟩

/-! ## The two-step PCI read (R463, 46_pci.md R397, R400) -/

/-- R397: the address register and its cursors hold `v`. -/
def State.withPciAddress (v : Word) (s : State) : State :=
  { s with pci := { s.pci with addr := v, curIndex := pciIndexOf v, curReg := pciRegOf v } }

/-- 20_memory.md R100: the payload word is the value that the first four payload bytes spell out. -/
theorem payloadWord_eq {s : State} {v : Word} (h : ∀ j < 4, s.mem.read (s.base + j) = (leBytes v 4).getD j 0) :
    s.payloadWord = v := by
  have h0 : s.mem.read s.base = v.extractLsb' 0 8 := h 0 (by decide)
  have h1 : s.mem.read (s.base + 1) = v.extractLsb' 8 8 := h 1 (by decide)
  have h2 : s.mem.read (s.base + 2) = v.extractLsb' 16 8 := h 2 (by decide)
  have h3 : s.mem.read (s.base + 3) = v.extractLsb' 24 8 := h 3 (by decide)
  rw [State.payloadWord, h0, h1, h2, h3, BitVec.extractLsb'_append_extractLsb'_eq_extractLsb' (show 24 = 16 + 8 by rfl),
    BitVec.extractLsb'_append_extractLsb'_eq_extractLsb' (show 16 = 8 + 8 by rfl),
    BitVec.extractLsb'_append_extractLsb'_eq_extractLsb' (show 8 = 0 + 8 by rfl)]
  exact BitVec.extractLsb'_eq_self

theorem deliver_leBytes_payloadWord {s : State} (h : s.mem.wf = true) (d : Descriptor) (v : Word) (rest : List Input) :
    (deliver s (.trap d (leBytes v 4)) rest).payloadWord = v :=
  payloadWord_eq fun _ hj => Memory.read_writeBytes_same h _ _ (by rwa [leBytes_length])

/-- R397 as a step: the value is the delivered payload. -/
theorem step_pciAddrWrite {s : State} {off : BitVec 64} {host : List Byte} {rest : List Input} {v : Word}
    (h : Awaits s (.trap ⟨.out, .b4, 0xCF8, 1, off⟩ host) rest)
    (hv : (deliver s (.trap ⟨.out, .b4, 0xCF8, 1, off⟩ host) rest).payloadWord = v) :
    step s = .next ((deliver s (.trap ⟨.out, .b4, 0xCF8, 1, off⟩ host) rest).withPciAddress v) := by
  subst hv
  refine (step_ok h (decode_pciAddr_out ?_ _)).trans (exec_pciAddrWrite _ _)
  rw [deliver_seq]
  exact h.ports_fixed

theorem Awaits.withPciAddress {s : State} {d : Descriptor} {host : List Byte} {i : Input} {rest : List Input}
    (h : Awaits s (.trap d host) (i :: rest)) (v : Word) :
    Awaits ((deliver s (.trap d host) (i :: rest)).withPciAddress v) i rest :=
  ⟨h.alive, h.ports_fixed, Memory.writeBytes_wf h.mem_wf _ _, rfl⟩

/-- R400 as a step: inside the block its bytes are answered at the buffer offset, and there is no fatal. -/
theorem step_pciDataRead {s : State} {z : Size} {lane : BitVec 2} {off : BitVec 64} {host : List Byte} {rest : List Input}
    (h : Awaits s (.trap ⟨.inp, z, 0x33F#14 ++ lane, 1, off⟩ host) rest)
    (hblock : s.pci.curIndex < s.params.pciNumBlocks) (hbyte : pciOffset s.pci lane + z.bytes ≤ 256) :
    ∃ t, step s = .next t ∧ t.fatal = none ∧
      ∀ j < z.bytes, t.mem.read (off.toNat + j) = s.pci.block.getD (pciOffset s.pci lane + j) 0 := by
  have hmem := Memory.writeBytes_wf h.mem_wf off.toNat host
  refine ⟨_, (step_ok h (decode_pciData_in ?_ z lane _)).trans (exec_pciDataRead_inside ?_ ?_), ?_, fun j hj => ?_⟩
  · rw [deliver_seq]; exact h.ports_fixed
  · rwa [deliver_pci, deliver_params]
  · rwa [deliver_pci]
  · rw [State.reply_fatal, deliver_fatal, h.alive]
  · rw [deliver_pci]
    refine (Memory.read_writeBytes_same hmem _ _ ?_).trans (Pci.bytesAt_getD _ _ hj)
    rwa [Pci.bytesAt_length]

/-- 46_pci.md R396: R6 makes the display's index a block, so there is a block 0. -/
theorem pciNumBlocks_pos {p : Params} (h : p.wf) : 0 < p.pciNumBlocks := by
  obtain ⟨-, -, -, -, -, -, -, hdisplay, -⟩ := h
  exact Nat.zero_lt_of_lt hdisplay

/-- The address 0x80000000 chooses register 0 of block 0, whose first two bytes are the vendor id. -/
theorem pciVendorId_resetWith {p : Params} (h : p.wf) : ∃ t u, step ((State.resetWith p).withInputs
      [.trap ⟨.out, .b4, 0xCF8, 1, 0⟩ [0x00, 0x00, 0x00, 0x80], .trap ⟨.inp, .b2, 0xCFC, 1, 0⟩ [0x00, 0x00]]) = .next t ∧
    step t = .next u ∧ u.fatal = none ∧ u.mem.read 0 = 0x86 ∧ u.mem.read 1 = 0x80 := by
  have hwrite := awaits_resetWith p (.trap ⟨.out, .b4, 0xCF8, 1, 0⟩ [0x00, 0x00, 0x00, 0x80])
    [.trap ⟨.inp, .b2, 0xCFC, 1, 0⟩ [0x00, 0x00]]
  have haddr := step_pciAddrWrite hwrite (deliver_leBytes_payloadWord (reset_mem_wf p) _ 0x80000000 _)
  obtain ⟨u, hstep, hfatal, hbytes⟩ := step_pciDataRead (z := .b2) (lane := 0) (hwrite.withPciAddress 0x80000000)
    (pciNumBlocks_pos h) (show (pciRegOf 0x80000000).toNat * 4 + (0 : BitVec 2).toNat + 2 ≤ 256 by decide)
  have hblock : (Pci.reset p).blocks.getD 0 [] = 0x86 :: 0x80 :: 0x37 :: 0x12 :: p.pciHostRest :=
    (Pci.reset_blocks_getD (pciNumBlocks_pos h)).trans (pciInitBlock_zero p)
  have hbyte {j : Nat} (hj : j < 2) : u.mem.read (0 + j) = (0x86 :: 0x80 :: 0x37 :: 0x12 :: p.pciHostRest).getD (0 + j) 0 :=
    hblock ▸ hbytes j hj
  exact ⟨_, u, haddr, hstep, hfatal, hbyte (j := 0) (by decide), hbyte (j := 1) (by decide)⟩

/-- Settles O26: the agents' steps leave the reset state, DRQ is 0 in it, and block 0 is the host bridge. -/
theorem postResetFacts : Obligations.PostResetFacts := by
  intro p hp
  refine ⟨step_hostTake_resetWith p, step_picTick_resetWith p, step_pitTick_resetWith p, fun d host is hport => ?_,
    pciVendorId_resetWith hp⟩
  have hdrq : (Ata.reset p).status.getLsbD 3 = false := show (0x40 : Byte).getLsbD 3 = false by decide
  obtain ⟨x, hstep⟩ := step_ataData_fatal (awaits_resetWith p (.trap d host) is) hport hdrq
  exact ⟨_, hstep, by rw [raiseFatal_fatal]; exact Option.some_ne_none _⟩

end Sys2Proof.Machine
end
